-- ==== Sys2Proof/Word.lean ====
section
/-! DEFINITION. The plain word types of the block: a byte of a client buffer, a 32-bit controller
register (spec 10_state.md R22), and a FIFO unit (at most eight bytes wide, 00_scope.md R7). -/

namespace Sys2Proof

/-- A byte of a client buffer (20_memory.md R63). -/
abbrev Byte := BitVec 8

/-- A controller register other than DATA: one 32-bit word (10_state.md R22). -/
abbrev Word := BitVec 32

/-- Room for one FIFO transfer unit of `W` bytes, `W` being 4 or 8 (20_memory.md R62). With `W = 4`
the upper half is zero. -/
abbrev DWord := BitVec 64

end Sys2Proof
end

