-- ==== Sys2Proof/Config.lean ====
section
/-! DEFINITION. What an implementation of the block fixes (00_scope.md R7: the open parameters, which
the spec asks a model to take as an argument), and the one free value of the model: the environment
(20_memory.md R71), an opaque constant with no body. The default parameter set is in
Sys2Proof/Machine/Params.lean, the checks on a parameter set in Sys2Proof/WellFormed.lean. -/

namespace Sys2Proof

/-- `W`, bytes of one DATA access, is 4 or 8 (00_scope.md R7, D8). No other value can be written
down, which is how a set with `W` outside that range is refused (93 U18). -/
inductive FifoWidth
  | w4
  | w8
deriving DecidableEq, Repr

/-- `UNITS_PER_ACCESS`, by how much one DATA access changes the filled count: 1 or 2 (R7, D8). -/
inductive FifoUnits
  | one
  | two
deriving DecidableEq, Repr

/-- `CID_MSW`, the response register that holds CID bits [127:96] (R7, D25). -/
inductive CidMsw
  | resp0
  | resp3
deriving DecidableEq, Repr

/-- Lowest bit position of each field of CTRL (30_encoding.md R93); every field is one bit. -/
structure CtrlLayout where
  controllerReset : Nat
  fifoReset : Nat
  dmaReset : Nat
  intEnable : Nat
deriving DecidableEq, Repr

/-- CTYPE (R97): two one-bit fields. -/
structure CtypeLayout where
  width4 : Nat
  width8 : Nat
deriving DecidableEq, Repr

/-- CMD (R100): lowest bit positions; `cardIndex` is five bits wide, `index` six, the rest one. -/
structure CmdLayout where
  start : Nat
  cardIndex : Nat
  sendInit : Nat
  direction : Nat
  dataExpected : Nat
  checkCrc : Nat
  responseLength : Nat
  responseExpect : Nat
  index : Nat
deriving DecidableEq, Repr

/-- RINTSTS (R101): sixteen one-bit flags in the low half. -/
structure RintstsLayout where
  cardDetect : Nat
  responseError : Nat
  commandDone : Nat
  dataTransferOver : Nat
  txDataRequest : Nat
  rxDataRequest : Nat
  responseCrcError : Nat
  dataCrcError : Nat
  responseTimeout : Nat
  dataTimeout : Nat
  hostTimeout : Nat
  fifoRunError : Nat
  hardwareLockedError : Nat
  startBitError : Nat
  autoCommandDone : Nat
  endBitError : Nat
deriving DecidableEq, Repr

/-- STATUS (R102): `dataBusy` one bit, `fifoCount` thirteen. -/
structure StatusLayout where
  dataBusy : Nat
  fifoCount : Nat
deriving DecidableEq, Repr

/-- BMOD (R104): `skipLength` five bits, `burstLength` three, the rest one. -/
structure BmodLayout where
  softwareReset : Nat
  fixedBurst : Nat
  skipLength : Nat
  idmacEnable : Nat
  burstLength : Nat
deriving DecidableEq, Repr

/-- The parameter `LAYOUT` (R92): where each field named in R93 to R105 lies. The widths are fixed by
those rules; only the lowest bit of each field is a parameter. -/
structure Layout where
  ctrl : CtrlLayout
  pwrenPowerEnable : Nat
  clkdivDivider : Nat
  clkenaCclkEnable : Nat
  ctype : CtypeLayout
  blksizBlockSize : Nat
  bytcntByteCount : Nat
  cmd : CmdLayout
  rintsts : RintstsLayout
  status : StatusLayout
  cdetectCardDetectN : Nat
  bmod : BmodLayout
  dbaddrlAddr : Nat
  dbaddruAddr : Nat
deriving DecidableEq, Repr

/-- The parameters `OFF_<REG>` (R7, 20_memory.md R72): the offset of each of the twenty registers. -/
structure Offsets where
  ctrl : Nat
  pwren : Nat
  clkdiv : Nat
  clkena : Nat
  ctype : Nat
  blksiz : Nat
  bytcnt : Nat
  cmdarg : Nat
  cmd : Nat
  resp0 : Nat
  resp1 : Nat
  resp2 : Nat
  resp3 : Nat
  rintsts : Nat
  status : Nat
  cdetect : Nat
  bmod : Nat
  dbaddrl : Nat
  dbaddru : Nat
  data : Nat
deriving DecidableEq, Repr

/-- The open parameters of 00_scope.md R7. They are fixed when the block is built (40 R141) and no
operation changes them. -/
structure Params where
  /-- `BASE`. -/
  base : Nat
  /-- `OFF_<REG>`. -/
  off : Offsets
  /-- `LAYOUT`. -/
  layout : Layout
  /-- `W`. -/
  w : FifoWidth
  /-- `UNITS_PER_ACCESS`, a parameter of the environment. -/
  units : FifoUnits
  /-- `OCR_ARG`. -/
  ocrArg : Word
  /-- `OCR_READY_BIT`. -/
  ocrReadyBit : Nat
  /-- `OCR_CCS_BIT`. -/
  ocrCcsBit : Nat
  /-- `OCR_RETRY_MAX`, at least 1. -/
  ocrRetryMax : Nat
  /-- `OCR_DELAY`, the duration handed to the delay port. -/
  ocrDelay : Nat
  /-- `TIMEOUT_MS`, the deadline of every bounded wait. -/
  timeoutMs : Nat
  /-- `INIT_DIV`, 1 to 255. -/
  initDiv : BitVec 8
  /-- `CMD_EXTRA_BITS`. -/
  cmdExtraBits : Word
  /-- `COMMIT_CLK_VALUE`. -/
  commitClkValue : Word
  /-- `CID_MSW`. -/
  cidMsw : CidMsw
deriving DecidableEq, Repr

end Sys2Proof

namespace Sys2Proof.Machine

/-- The nineteen 32-bit registers of the controller's register block (10 R21, R23 to R37). DATA holds no
value of its own (R38). -/
structure Regs where
  ctrl : Word
  pwren : Word
  clkdiv : Word
  clkena : Word
  ctype : Word
  blksiz : Word
  bytcnt : Word
  cmdarg : Word
  cmd : Word
  resp0 : Word
  resp1 : Word
  resp2 : Word
  resp3 : Word
  rintsts : Word
  status : Word
  cdetect : Word
  bmod : Word
  dbaddrl : Word
  dbaddru : Word
deriving DecidableEq, Repr, Inhabited

/-- A value handed to the controller by a write of CMD with `start = 1`, with the CMDARG current at the
time (20 R68). -/
structure Flight where
  value : Word
  arg : Word
deriving DecidableEq, Repr

/-- What the controller holds when the block comes out of a reset (10_state.md R49: each of its registers is
unspecified): any registers, any FIFO contents, any command still in flight, any clock in force. -/
structure Boot where
  regs : Regs
  fifo : List DWord
  /-- Filled FIFO locations short of a whole word. -/
  residue : Nat
  flight : Option Flight
  cardDiv : Word
  cardEna : Word
deriving DecidableEq, Repr, Inhabited

end Sys2Proof.Machine

namespace Sys2Proof

/-- One move of the environment: what the controller, the card and the clock do between one port
transaction of the block and the next (20_memory.md R71, R74). The laws R66 to R70 are applied to a
move when it is used, and so is the fairness of the clock (60 R284; Sys2Proof/Machine/Ops.lean, `applyMove`), so
every move is allowed. -/
structure EnvMove where
  /-- Milliseconds that pass (60 R284: successive values of `now()` never decrease). -/
  ms : Nat
  /-- Where this move begins a standstill of the clock: how many more moves may pass no time (60 R284: time eventually
  advances). -/
  hold : Nat
  /-- CTRL as the controller drives it; a reset bit can only fall (R67). -/
  ctrl : Word
  /-- CMD as the controller drives it; `start` can only fall (R68). -/
  cmd : Word
  /-- STATUS apart from `fifo_count`, which follows the FIFO (R70). -/
  status : Word
  /-- Low half: RINTSTS flags that rise (R66); upper half: the reserved bits as they read. -/
  rint : Word
  resp0 : Word
  resp1 : Word
  resp2 : Word
  resp3 : Word
  /-- Words the controller takes out of its FIFO (R70). -/
  taken : Nat
  /-- Words the controller puts into its FIFO, in arrival order (R70). -/
  put : List DWord
  /-- Filled FIFO locations short of a whole word. -/
  residue : Nat
  /-- What a DATA read on an empty FIFO answers (93 U6: any value). -/
  junk : DWord
  /-- Whether a DATA write made now is lost because the FIFO is full (93 U6; its depth is unknown). -/
  full : Bool
  /-- What becomes of the bytes of a client buffer whose READ_BLOCK did not return `Ok` (93 U2: each
  byte is its old value or any value). -/
  scribble : List (Option Byte)
  /-- What the controller holds when this move is a reset of the block (10 R49, 93 U1). -/
  boot : Machine.Boot
deriving DecidableEq, Repr, Inhabited

/-- FREE VALUE (20_memory.md R71: "a value chosen by the environment"). The `n`-th move of the
environment once the moves that State lists are used up. No body: nothing can be proved of it. -/
opaque Config.oracle : Nat → EnvMove

end Sys2Proof
end

