-- ==== Sys2Proof/Machine/Params.lean ====
section
/-! DEFINITION. The default parameter set of 00_scope.md R7 (default offsets 20_memory.md R72, default
layout 30_encoding.md R93 to R105), the fixed quantities of R7, and the addresses. -/

namespace Sys2Proof

/-- Default offsets (20_memory.md R72). -/
def Offsets.default : Offsets :=
  { ctrl := 0x000, pwren := 0x004, clkdiv := 0x008, clkena := 0x010, ctype := 0x018
    blksiz := 0x01C, bytcnt := 0x020, cmdarg := 0x028, cmd := 0x02C
    resp0 := 0x030, resp1 := 0x034, resp2 := 0x038, resp3 := 0x03C
    rintsts := 0x044, status := 0x048, cdetect := 0x050, bmod := 0x080
    dbaddrl := 0x088, dbaddru := 0x08C, data := 0x200 }

/-- Default layout: the "default position" columns of R93 to R105. -/
def Layout.default : Layout :=
  { ctrl := { controllerReset := 0, fifoReset := 1, dmaReset := 2, intEnable := 4 }
    pwrenPowerEnable := 0
    clkdivDivider := 0
    clkenaCclkEnable := 0
    ctype := { width4 := 0, width8 := 16 }
    blksizBlockSize := 0
    bytcntByteCount := 0
    cmd := { start := 31, cardIndex := 16, sendInit := 15, direction := 10, dataExpected := 9
             checkCrc := 8, responseLength := 7, responseExpect := 6, index := 0 }
    rintsts := { cardDetect := 0, responseError := 1, commandDone := 2, dataTransferOver := 3
                 txDataRequest := 4, rxDataRequest := 5, responseCrcError := 6, dataCrcError := 7
                 responseTimeout := 8, dataTimeout := 9, hostTimeout := 10, fifoRunError := 11
                 hardwareLockedError := 12, startBitError := 13, autoCommandDone := 14
                 endBitError := 15 }
    status := { dataBusy := 9, fifoCount := 17 }
    cdetectCardDetectN := 0
    bmod := { softwareReset := 0, fixedBurst := 1, skipLength := 2, idmacEnable := 7
              burstLength := 8 }
    dbaddrlAddr := 0
    dbaddruAddr := 0 }

/-- Default parameters (R7). R7 gives no default for `OCR_RETRY_MAX`, `OCR_DELAY`, `TIMEOUT_MS` and
`INIT_DIV`. DESIGN CHOICE (notes/assumptions/2.md), unsafe: the test values of 95_test_vectors.md
section 0 (5, 100 and 62), and a delay of 1. -/
def Params.default : Params :=
  { base := 0x16020000
    off := Offsets.default
    layout := Layout.default
    w := .w8
    units := .two
    ocrArg := 0x40FF8000
    ocrReadyBit := 31
    ocrCcsBit := 30
    ocrRetryMax := 5
    ocrDelay := 1
    timeoutMs := 100
    initDiv := 62
    cmdExtraBits := 0
    commitClkValue := 0x80202000
    cidMsw := .resp3 }

/-- `W` as a number of bytes. -/
def FifoWidth.bytes : FifoWidth → Nat
  | .w4 => 4
  | .w8 => 8

/-- `UNITS_PER_ACCESS` as a number of FIFO locations. -/
def FifoUnits.count : FifoUnits → Nat
  | .one => 1
  | .two => 2

/-- `BLOCK_BYTES` (R7). -/
def blockBytes : Nat := 512

/-- `SCR_BYTES` (R7). -/
def scrBytes : Nat := 8

/-- `RX_LOW_WATER` (R7): the read pump drains while the filled count is at least this. -/
def rxLowWater : Nat := 2

/-- `FIFO_CAP` (R7): the write pump fills while the filled count is below this. -/
def fifoCap : Nat := 120

/-- `IF_COND_ARG` (R7). -/
def ifCondArg : Word := 0x000001AA

/-- `CARD_INDEX` (R7, 41_command_encoder.md R165): one card only. -/
def cardIndexValue : BitVec 5 := 0

/-- `YEAR_BASE` (R7). -/
def yearBase : Nat := 2000

/-- Length of a client buffer in FIFO words, `512 / W` (45_block_api.md R252). -/
def Params.blockWords (c : Params) : Nat := blockBytes / c.w.bytes

/-- Length of the SCR buffer in FIFO words, `8 / W` (44_init_state_machine.md R233). -/
def Params.scrWords (c : Params) : Nat := scrBytes / c.w.bytes

/-- The registers of the map other than DATA (10_state.md R21; DATA has its own two operations). -/
inductive Reg
  | ctrl
  | pwren
  | clkdiv
  | clkena
  | ctype
  | blksiz
  | bytcnt
  | cmdarg
  | cmd
  | resp0
  | resp1
  | resp2
  | resp3
  | rintsts
  | status
  | cdetect
  | bmod
  | dbaddrl
  | dbaddru
deriving DecidableEq, Repr

/-- `OFF_X`. -/
def Offsets.get (o : Offsets) : Reg → Nat
  | .ctrl => o.ctrl
  | .pwren => o.pwren
  | .clkdiv => o.clkdiv
  | .clkena => o.clkena
  | .ctype => o.ctype
  | .blksiz => o.blksiz
  | .bytcnt => o.bytcnt
  | .cmdarg => o.cmdarg
  | .cmd => o.cmd
  | .resp0 => o.resp0
  | .resp1 => o.resp1
  | .resp2 => o.resp2
  | .resp3 => o.resp3
  | .rintsts => o.rintsts
  | .status => o.status
  | .cdetect => o.cdetect
  | .bmod => o.bmod
  | .dbaddrl => o.dbaddrl
  | .dbaddru => o.dbaddru

/-- The address of register `X` is `BASE + OFF_X` (20_memory.md R72). -/
def Params.addr (c : Params) (X : Reg) : Nat := c.base + c.off.get X

/-- The one address of the FIFO, `BASE + OFF_DATA` (R62). -/
def Params.dataAddr (c : Params) : Nat := c.base + c.off.data

end Sys2Proof
end

