-- ==== Sys2Proof/Machine/Operands.lean ====
section
/-! DEFINITION. Operand forms: bit fields, the typed view of every register (30_encoding.md R91, R93 to
R106; the operations DECODE and ENCODE of 40_register_access.md R134, R135), and the arguments that are
built from parts (R107). Everything here is pure. -/

namespace Sys2Proof

/-- `raw[lo+w-1 : lo]` (00 R8, 30 R91). -/
def getField (raw : Word) (lo w : Nat) : BitVec w := raw.extractLsb' lo w

/-- `F.f << lo`, one term of `enc_T` (30 R91). -/
def putField {w : Nat} (lo : Nat) (v : BitVec w) : Word := v.setWidth 32 <<< lo

/-- The mask of a field. -/
def fieldMask (lo w : Nat) : Word := putField lo (BitVec.allOnes w)

/-- The OR of the masks of several fields, each given as (lowest bit, width): `M_T` of R91. -/
def rangesMask : List (Nat × Nat) → Word
  | [] => 0
  | (lo, w) :: rest => fieldMask lo w ||| rangesMask rest

/-- The field record of CTRL (R93). -/
structure CtrlFields where
  controllerReset : BitVec 1
  fifoReset : BitVec 1
  dmaReset : BitVec 1
  intEnable : BitVec 1
deriving DecidableEq, Repr

/-- The fields of CTRL as (lowest bit, width) (R93). -/
def Layout.rangesCtrl (l : Layout) : List (Nat × Nat) :=
  [(l.ctrl.controllerReset, 1),
   (l.ctrl.fifoReset, 1),
   (l.ctrl.dmaReset, 1),
   (l.ctrl.intEnable, 1)]

/-- `dec_CTRL` (R91, 40 R134). -/
def decCtrl (l : Layout) (raw : Word) : CtrlFields :=
  { controllerReset := getField raw l.ctrl.controllerReset 1
    fifoReset := getField raw l.ctrl.fifoReset 1
    dmaReset := getField raw l.ctrl.dmaReset 1
    intEnable := getField raw l.ctrl.intEnable 1 }

/-- `enc_CTRL` (R91, 40 R135): reserved bits are zero. -/
def encCtrl (l : Layout) (f : CtrlFields) : Word :=
  putField l.ctrl.controllerReset f.controllerReset |||
  putField l.ctrl.fifoReset f.fifoReset |||
  putField l.ctrl.dmaReset f.dmaReset |||
  putField l.ctrl.intEnable f.intEnable

/-- The field record of PWREN (R94). -/
structure PwrenFields where
  powerEnable : BitVec 1
deriving DecidableEq, Repr

/-- The fields of PWREN as (lowest bit, width) (R94). -/
def Layout.rangesPwren (l : Layout) : List (Nat × Nat) :=
  [(l.pwrenPowerEnable, 1)]

/-- `dec_PWREN` (R91, 40 R134). -/
def decPwren (l : Layout) (raw : Word) : PwrenFields :=
  { powerEnable := getField raw l.pwrenPowerEnable 1 }

/-- `enc_PWREN` (R91, 40 R135): reserved bits are zero. -/
def encPwren (l : Layout) (f : PwrenFields) : Word :=
  putField l.pwrenPowerEnable f.powerEnable

/-- The field record of CLKDIV (R95). -/
structure ClkdivFields where
  divider : BitVec 8
deriving DecidableEq, Repr

/-- The fields of CLKDIV as (lowest bit, width) (R95). -/
def Layout.rangesClkdiv (l : Layout) : List (Nat × Nat) :=
  [(l.clkdivDivider, 8)]

/-- `dec_CLKDIV` (R91, 40 R134). -/
def decClkdiv (l : Layout) (raw : Word) : ClkdivFields :=
  { divider := getField raw l.clkdivDivider 8 }

/-- `enc_CLKDIV` (R91, 40 R135): reserved bits are zero. -/
def encClkdiv (l : Layout) (f : ClkdivFields) : Word :=
  putField l.clkdivDivider f.divider

/-- The field record of CLKENA (R96). -/
structure ClkenaFields where
  cclkEnable : BitVec 1
deriving DecidableEq, Repr

/-- The fields of CLKENA as (lowest bit, width) (R96). -/
def Layout.rangesClkena (l : Layout) : List (Nat × Nat) :=
  [(l.clkenaCclkEnable, 1)]

/-- `dec_CLKENA` (R91, 40 R134). -/
def decClkena (l : Layout) (raw : Word) : ClkenaFields :=
  { cclkEnable := getField raw l.clkenaCclkEnable 1 }

/-- `enc_CLKENA` (R91, 40 R135): reserved bits are zero. -/
def encClkena (l : Layout) (f : ClkenaFields) : Word :=
  putField l.clkenaCclkEnable f.cclkEnable

/-- The field record of CTYPE (R97). -/
structure CtypeFields where
  width4 : BitVec 1
  width8 : BitVec 1
deriving DecidableEq, Repr

/-- The fields of CTYPE as (lowest bit, width) (R97). -/
def Layout.rangesCtype (l : Layout) : List (Nat × Nat) :=
  [(l.ctype.width4, 1),
   (l.ctype.width8, 1)]

/-- `dec_CTYPE` (R91, 40 R134). -/
def decCtype (l : Layout) (raw : Word) : CtypeFields :=
  { width4 := getField raw l.ctype.width4 1
    width8 := getField raw l.ctype.width8 1 }

/-- `enc_CTYPE` (R91, 40 R135): reserved bits are zero. -/
def encCtype (l : Layout) (f : CtypeFields) : Word :=
  putField l.ctype.width4 f.width4 |||
  putField l.ctype.width8 f.width8

/-- The field record of BLKSIZ (R98). -/
structure BlksizFields where
  blockSize : BitVec 16
deriving DecidableEq, Repr

/-- The fields of BLKSIZ as (lowest bit, width) (R98). -/
def Layout.rangesBlksiz (l : Layout) : List (Nat × Nat) :=
  [(l.blksizBlockSize, 16)]

/-- `dec_BLKSIZ` (R91, 40 R134). -/
def decBlksiz (l : Layout) (raw : Word) : BlksizFields :=
  { blockSize := getField raw l.blksizBlockSize 16 }

/-- `enc_BLKSIZ` (R91, 40 R135): reserved bits are zero. -/
def encBlksiz (l : Layout) (f : BlksizFields) : Word :=
  putField l.blksizBlockSize f.blockSize

/-- The field record of BYTCNT (R99). -/
structure BytcntFields where
  byteCount : BitVec 32
deriving DecidableEq, Repr

/-- The fields of BYTCNT as (lowest bit, width) (R99). -/
def Layout.rangesBytcnt (l : Layout) : List (Nat × Nat) :=
  [(l.bytcntByteCount, 32)]

/-- `dec_BYTCNT` (R91, 40 R134). -/
def decBytcnt (l : Layout) (raw : Word) : BytcntFields :=
  { byteCount := getField raw l.bytcntByteCount 32 }

/-- `enc_BYTCNT` (R91, 40 R135): reserved bits are zero. -/
def encBytcnt (l : Layout) (f : BytcntFields) : Word :=
  putField l.bytcntByteCount f.byteCount

/-- The field record of CMD (R100). -/
structure CmdFields where
  start : BitVec 1
  cardIndex : BitVec 5
  sendInit : BitVec 1
  direction : BitVec 1
  dataExpected : BitVec 1
  checkCrc : BitVec 1
  responseLength : BitVec 1
  responseExpect : BitVec 1
  index : BitVec 6
deriving DecidableEq, Repr

/-- The fields of CMD as (lowest bit, width) (R100). -/
def Layout.rangesCmd (l : Layout) : List (Nat × Nat) :=
  [(l.cmd.start, 1),
   (l.cmd.cardIndex, 5),
   (l.cmd.sendInit, 1),
   (l.cmd.direction, 1),
   (l.cmd.dataExpected, 1),
   (l.cmd.checkCrc, 1),
   (l.cmd.responseLength, 1),
   (l.cmd.responseExpect, 1),
   (l.cmd.index, 6)]

/-- `dec_CMD` (R91, 40 R134). -/
def decCmd (l : Layout) (raw : Word) : CmdFields :=
  { start := getField raw l.cmd.start 1
    cardIndex := getField raw l.cmd.cardIndex 5
    sendInit := getField raw l.cmd.sendInit 1
    direction := getField raw l.cmd.direction 1
    dataExpected := getField raw l.cmd.dataExpected 1
    checkCrc := getField raw l.cmd.checkCrc 1
    responseLength := getField raw l.cmd.responseLength 1
    responseExpect := getField raw l.cmd.responseExpect 1
    index := getField raw l.cmd.index 6 }

/-- `enc_CMD` (R91, 40 R135): reserved bits are zero. -/
def encCmd (l : Layout) (f : CmdFields) : Word :=
  putField l.cmd.start f.start |||
  putField l.cmd.cardIndex f.cardIndex |||
  putField l.cmd.sendInit f.sendInit |||
  putField l.cmd.direction f.direction |||
  putField l.cmd.dataExpected f.dataExpected |||
  putField l.cmd.checkCrc f.checkCrc |||
  putField l.cmd.responseLength f.responseLength |||
  putField l.cmd.responseExpect f.responseExpect |||
  putField l.cmd.index f.index

/-- The field record of RINTSTS (R101). -/
structure RintstsFields where
  cardDetect : BitVec 1
  responseError : BitVec 1
  commandDone : BitVec 1
  dataTransferOver : BitVec 1
  txDataRequest : BitVec 1
  rxDataRequest : BitVec 1
  responseCrcError : BitVec 1
  dataCrcError : BitVec 1
  responseTimeout : BitVec 1
  dataTimeout : BitVec 1
  hostTimeout : BitVec 1
  fifoRunError : BitVec 1
  hardwareLockedError : BitVec 1
  startBitError : BitVec 1
  autoCommandDone : BitVec 1
  endBitError : BitVec 1
deriving DecidableEq, Repr

/-- The fields of RINTSTS as (lowest bit, width) (R101). -/
def Layout.rangesRintsts (l : Layout) : List (Nat × Nat) :=
  [(l.rintsts.cardDetect, 1),
   (l.rintsts.responseError, 1),
   (l.rintsts.commandDone, 1),
   (l.rintsts.dataTransferOver, 1),
   (l.rintsts.txDataRequest, 1),
   (l.rintsts.rxDataRequest, 1),
   (l.rintsts.responseCrcError, 1),
   (l.rintsts.dataCrcError, 1),
   (l.rintsts.responseTimeout, 1),
   (l.rintsts.dataTimeout, 1),
   (l.rintsts.hostTimeout, 1),
   (l.rintsts.fifoRunError, 1),
   (l.rintsts.hardwareLockedError, 1),
   (l.rintsts.startBitError, 1),
   (l.rintsts.autoCommandDone, 1),
   (l.rintsts.endBitError, 1)]

/-- `dec_RINTSTS` (R91, 40 R134). -/
def decRintsts (l : Layout) (raw : Word) : RintstsFields :=
  { cardDetect := getField raw l.rintsts.cardDetect 1
    responseError := getField raw l.rintsts.responseError 1
    commandDone := getField raw l.rintsts.commandDone 1
    dataTransferOver := getField raw l.rintsts.dataTransferOver 1
    txDataRequest := getField raw l.rintsts.txDataRequest 1
    rxDataRequest := getField raw l.rintsts.rxDataRequest 1
    responseCrcError := getField raw l.rintsts.responseCrcError 1
    dataCrcError := getField raw l.rintsts.dataCrcError 1
    responseTimeout := getField raw l.rintsts.responseTimeout 1
    dataTimeout := getField raw l.rintsts.dataTimeout 1
    hostTimeout := getField raw l.rintsts.hostTimeout 1
    fifoRunError := getField raw l.rintsts.fifoRunError 1
    hardwareLockedError := getField raw l.rintsts.hardwareLockedError 1
    startBitError := getField raw l.rintsts.startBitError 1
    autoCommandDone := getField raw l.rintsts.autoCommandDone 1
    endBitError := getField raw l.rintsts.endBitError 1 }

/-- `enc_RINTSTS` (R91, 40 R135): reserved bits are zero. -/
def encRintsts (l : Layout) (f : RintstsFields) : Word :=
  putField l.rintsts.cardDetect f.cardDetect |||
  putField l.rintsts.responseError f.responseError |||
  putField l.rintsts.commandDone f.commandDone |||
  putField l.rintsts.dataTransferOver f.dataTransferOver |||
  putField l.rintsts.txDataRequest f.txDataRequest |||
  putField l.rintsts.rxDataRequest f.rxDataRequest |||
  putField l.rintsts.responseCrcError f.responseCrcError |||
  putField l.rintsts.dataCrcError f.dataCrcError |||
  putField l.rintsts.responseTimeout f.responseTimeout |||
  putField l.rintsts.dataTimeout f.dataTimeout |||
  putField l.rintsts.hostTimeout f.hostTimeout |||
  putField l.rintsts.fifoRunError f.fifoRunError |||
  putField l.rintsts.hardwareLockedError f.hardwareLockedError |||
  putField l.rintsts.startBitError f.startBitError |||
  putField l.rintsts.autoCommandDone f.autoCommandDone |||
  putField l.rintsts.endBitError f.endBitError

/-- The field record of STATUS (R102). -/
structure StatusFields where
  dataBusy : BitVec 1
  fifoCount : BitVec 13
deriving DecidableEq, Repr

/-- The fields of STATUS as (lowest bit, width) (R102). -/
def Layout.rangesStatus (l : Layout) : List (Nat × Nat) :=
  [(l.status.dataBusy, 1),
   (l.status.fifoCount, 13)]

/-- `dec_STATUS` (R91, 40 R134). -/
def decStatus (l : Layout) (raw : Word) : StatusFields :=
  { dataBusy := getField raw l.status.dataBusy 1
    fifoCount := getField raw l.status.fifoCount 13 }

/-- `enc_STATUS` (R91, 40 R135): reserved bits are zero. -/
def encStatus (l : Layout) (f : StatusFields) : Word :=
  putField l.status.dataBusy f.dataBusy |||
  putField l.status.fifoCount f.fifoCount

/-- The field record of CDETECT (R103). -/
structure CdetectFields where
  cardDetectN : BitVec 1
deriving DecidableEq, Repr

/-- The fields of CDETECT as (lowest bit, width) (R103). -/
def Layout.rangesCdetect (l : Layout) : List (Nat × Nat) :=
  [(l.cdetectCardDetectN, 1)]

/-- `dec_CDETECT` (R91, 40 R134). -/
def decCdetect (l : Layout) (raw : Word) : CdetectFields :=
  { cardDetectN := getField raw l.cdetectCardDetectN 1 }

/-- `enc_CDETECT` (R91, 40 R135): reserved bits are zero. -/
def encCdetect (l : Layout) (f : CdetectFields) : Word :=
  putField l.cdetectCardDetectN f.cardDetectN

/-- The field record of BMOD (R104). -/
structure BmodFields where
  softwareReset : BitVec 1
  fixedBurst : BitVec 1
  skipLength : BitVec 5
  idmacEnable : BitVec 1
  burstLength : BitVec 3
deriving DecidableEq, Repr

/-- The fields of BMOD as (lowest bit, width) (R104). -/
def Layout.rangesBmod (l : Layout) : List (Nat × Nat) :=
  [(l.bmod.softwareReset, 1),
   (l.bmod.fixedBurst, 1),
   (l.bmod.skipLength, 5),
   (l.bmod.idmacEnable, 1),
   (l.bmod.burstLength, 3)]

/-- `dec_BMOD` (R91, 40 R134). -/
def decBmod (l : Layout) (raw : Word) : BmodFields :=
  { softwareReset := getField raw l.bmod.softwareReset 1
    fixedBurst := getField raw l.bmod.fixedBurst 1
    skipLength := getField raw l.bmod.skipLength 5
    idmacEnable := getField raw l.bmod.idmacEnable 1
    burstLength := getField raw l.bmod.burstLength 3 }

/-- `enc_BMOD` (R91, 40 R135): reserved bits are zero. -/
def encBmod (l : Layout) (f : BmodFields) : Word :=
  putField l.bmod.softwareReset f.softwareReset |||
  putField l.bmod.fixedBurst f.fixedBurst |||
  putField l.bmod.skipLength f.skipLength |||
  putField l.bmod.idmacEnable f.idmacEnable |||
  putField l.bmod.burstLength f.burstLength

/-- The field record of DBADDRL (R105). -/
structure DbaddrlFields where
  addr : BitVec 32
deriving DecidableEq, Repr

/-- The fields of DBADDRL as (lowest bit, width) (R105). -/
def Layout.rangesDbaddrl (l : Layout) : List (Nat × Nat) :=
  [(l.dbaddrlAddr, 32)]

/-- `dec_DBADDRL` (R91, 40 R134). -/
def decDbaddrl (l : Layout) (raw : Word) : DbaddrlFields :=
  { addr := getField raw l.dbaddrlAddr 32 }

/-- `enc_DBADDRL` (R91, 40 R135): reserved bits are zero. -/
def encDbaddrl (l : Layout) (f : DbaddrlFields) : Word :=
  putField l.dbaddrlAddr f.addr

/-- The field record of DBADDRU (R105). -/
structure DbaddruFields where
  addr : BitVec 32
deriving DecidableEq, Repr

/-- The fields of DBADDRU as (lowest bit, width) (R105). -/
def Layout.rangesDbaddru (l : Layout) : List (Nat × Nat) :=
  [(l.dbaddruAddr, 32)]

/-- `dec_DBADDRU` (R91, 40 R134). -/
def decDbaddru (l : Layout) (raw : Word) : DbaddruFields :=
  { addr := getField raw l.dbaddruAddr 32 }

/-- `enc_DBADDRU` (R91, 40 R135): reserved bits are zero. -/
def encDbaddru (l : Layout) (f : DbaddruFields) : Word :=
  putField l.dbaddruAddr f.addr

/-- CMDARG and RESP0 to RESP3 are one 32-bit field, so decode and encode are the identity (R106). -/
def decValue (raw : Word) : Word := raw

/-- See `decValue` (R106). -/
def encValue (v : Word) : Word := v

/-- `rca ++ 0x0000`, that is `rca << 16` (30 R107). -/
def rcaArg (rca : BitVec 16) : Word := rca ++ (0 : BitVec 16)

/-- The divisor a CLKDIV field value stands for: `2 * d`, and 1 (bypass) for 0 (40 R139). -/
def clockDivisor (d : BitVec 8) : Nat := if d = 0 then 1 else 2 * d.toNat

/-- `start` of a raw CMD value. -/
def cmdStart (l : Layout) (raw : Word) : Bool := (decCmd l raw).start = 1

/-- `response_expect` of a CMD value (41 R166). -/
def cmdResponseExpect (l : Layout) (raw : Word) : Bool := (decCmd l raw).responseExpect = 1

/-- `data_expected` of a CMD value (41 R166). -/
def cmdDataExpected (l : Layout) (raw : Word) : Bool := (decCmd l raw).dataExpected = 1

/-- `direction` of a CMD value: write to card when set. -/
def cmdDirectionWrite (l : Layout) (raw : Word) : Bool := (decCmd l raw).direction = 1

/-- `data_busy` of a raw STATUS value. -/
def statusBusy (l : Layout) (raw : Word) : Bool := (decStatus l raw).dataBusy = 1

/-- `fifo_count` of a raw STATUS value, an unsigned 13-bit number (40 R140). -/
def statusCount (l : Layout) (raw : Word) : Nat := (decStatus l raw).fifoCount.toNat

/-- The mask of the three self-clearing reset bits of CTRL (20 R67). -/
def resetMask (l : Layout) : Word :=
  fieldMask l.ctrl.controllerReset 1 ||| fieldMask l.ctrl.fifoReset 1 ||| fieldMask l.ctrl.dmaReset 1

/-- The two reset bits the block requests (40 R138). -/
inductive ResetBit
  | fifo
  | dma
deriving DecidableEq, Repr

/-- Where a reset bit lies. -/
def ResetBit.pos (l : Layout) : ResetBit → Nat
  | .fifo => l.ctrl.fifoReset
  | .dma => l.ctrl.dmaReset

/-- The mask `m_f` of R138. -/
def ResetBit.mask (l : Layout) (f : ResetBit) : Word := fieldMask (f.pos l) 1

/-- Whether the bit reads 1 in a raw CTRL value. -/
def ResetBit.reads (l : Layout) (raw : Word) (f : ResetBit) : Bool := getField raw (f.pos l) 1 = 1

/-- The largest FIFO word: `8W` ones. -/
def wordMask : FifoWidth → DWord
  | .w4 => 0x00000000FFFFFFFF
  | .w8 => 0xFFFFFFFFFFFFFFFF

end Sys2Proof
end

