-- ==== Sys2Proof/Syntax.lean ====
section
/-! DEFINITION. The instructions: one constructor of `Instr` per row of spec/opcode_table.json (twelve
CMD values, 30_encoding.md R115, and three client operations, R114); the command set with its opcodes;
the words an operation is presented in. -/

namespace Sys2Proof

/-- The eleven supported card commands (30_encoding.md R115). -/
inductive CardCmd
  | goIdleState
  | allSendCid
  | sendRelativeAddr
  | selectCard
  | sendIfCond
  | sendCsd
  | readSingleBlock
  | writeSingleBlock
  | sdSendOpCond
  | sendScr
  | appCmd
deriving DecidableEq, Repr

/-- A Command (R115): "an opcode in 0 to 56 or the token COMMIT_CLK". An opcode above 56 cannot be
written down (R117 b). -/
inductive Command
  | card (opcode : Fin 57)
  | commitClk
deriving DecidableEq, Repr

/-- What a block request hands over as `buf` and `len` (R114): the client's buffer, named by a handle, and the length in
bytes this request gives it (notes/assumptions/10.md, 11.md). -/
structure ClientBuffer where
  handle : Word
  len : Word
deriving DecidableEq, Repr

/-- The instructions, in the order of the opcode table. A command row is the internal operation
`XCHG <mnemonic>, <argument of R107>, <descriptor>` of R119 (the commit pulse: `COMMIT_CLK`); a client
row is a request `(op, index, buf, len)` on the client port (R114). Buffers are named by a handle. -/
inductive Instr
  /-- GO_IDLE_STATE, argument 0. -/
  | goIdleState
  /-- ALL_SEND_CID, argument 0. -/
  | allSendCid
  /-- SEND_RELATIVE_ADDR, argument 0. -/
  | sendRelativeAddr
  /-- SELECT_CARD, argument `rca ++ 0x0000`. -/
  | selectCard
  /-- SEND_IF_COND, argument `0x1AA`. -/
  | sendIfCond
  /-- SEND_CSD, argument `rca ++ 0x0000`. -/
  | sendCsd
  /-- READ_SINGLE_BLOCK, argument the block index, into client buffer `buf`. -/
  | readSingleBlock (index : Word) (buf : Word)
  /-- WRITE_SINGLE_BLOCK, argument the block index, from client buffer `buf`. -/
  | writeSingleBlock (index : Word) (buf : Word)
  /-- SD_SEND_OP_COND, argument `OCR_ARG`. -/
  | sdSendOpCond
  /-- SEND_SCR, argument 0, into the block's own 8-byte buffer. -/
  | sendScr
  /-- APP_CMD: argument 0 before SD_SEND_OP_COND, `rca << 16` before SEND_SCR (R107); by itself, any
  argument (notes/assumptions/30.md). -/
  | appCmd (arg : Word)
  /-- COMMIT_CLK, the controller-only pulse; no argument. -/
  | commitClk
  /-- INIT. -/
  | init
  /-- READ_BLOCK index, buf, len (45 R252). -/
  | readBlock (index : Word) (buf : ClientBuffer)
  /-- WRITE_BLOCK index, buf, len (45 R253). -/
  | writeBlock (index : Word) (buf : ClientBuffer)
deriving DecidableEq, Repr

/-- The two formats of the opcode table. -/
inductive Format
  | cmdreg
  | clientop
deriving DecidableEq, Repr

/-- An operation as it is presented to the block: its table format, the table's word (the CMD value, or
the 2-bit `op` code) and three operand words (argument or block index; buffer handle; buffer length), zero where
the operation has no such operand. -/
structure OpWords where
  format : Format
  w0 : Word
  w1 : Word
  w2 : Word
  w3 : Word
deriving DecidableEq, Repr

end Sys2Proof
end

