-- ==== Sys2Proof/Machine/Encoder.lean ====
section
/-! DEFINITION. The command encoder (41_command_encoder.md): opcodes (30_encoding.md R115), the policy of
each command (R150 to R162) and the value written to CMD (R165, R163). Pure: it reads no register and no
port (R150). The fault for an unsupported opcode (R164) is in Sys2Proof/Machine/Commands.lean. -/

namespace Sys2Proof

/-- The opcode of a card command (30 R115). -/
def CardCmd.opcode : CardCmd → BitVec 6
  | .goIdleState => 0
  | .allSendCid => 2
  | .sendRelativeAddr => 3
  | .selectCard => 7
  | .sendIfCond => 8
  | .sendCsd => 9
  | .readSingleBlock => 17
  | .writeSingleBlock => 24
  | .sdSendOpCond => 41
  | .sendScr => 51
  | .appCmd => 55

/-- The supported command of an opcode; the other opcodes are unsupported (30 R115, 41 R164). -/
def CardCmd.ofOpcode (n : Nat) : Option CardCmd :=
  if n = 0 then some .goIdleState
  else if n = 2 then some .allSendCid
  else if n = 3 then some .sendRelativeAddr
  else if n = 7 then some .selectCard
  else if n = 8 then some .sendIfCond
  else if n = 9 then some .sendCsd
  else if n = 17 then some .readSingleBlock
  else if n = 24 then some .writeSingleBlock
  else if n = 41 then some .sdSendOpCond
  else if n = 51 then some .sendScr
  else if n = 55 then some .appCmd
  else none

/-- The default policy (R151) with the fields common to every card command (R165). -/
def CardCmd.defaultFields (c : CardCmd) : CmdFields :=
  { start := 1, cardIndex := cardIndexValue, sendInit := 0, direction := 0, dataExpected := 0
    checkCrc := 1, responseLength := 0, responseExpect := 1, index := c.opcode }

/-- The fields of a command: the default policy and the special cases of R152, R153, R157 to R161. -/
def CardCmd.fields : CardCmd → CmdFields
  | .goIdleState =>
    { CardCmd.goIdleState.defaultFields with sendInit := 1, responseExpect := 0, checkCrc := 0 }
  | .allSendCid => { CardCmd.allSendCid.defaultFields with responseLength := 1, checkCrc := 0 }
  | .sendRelativeAddr => CardCmd.sendRelativeAddr.defaultFields
  | .selectCard => CardCmd.selectCard.defaultFields
  | .sendIfCond => CardCmd.sendIfCond.defaultFields
  | .sendCsd => { CardCmd.sendCsd.defaultFields with checkCrc := 0 }
  | .readSingleBlock => { CardCmd.readSingleBlock.defaultFields with dataExpected := 1 }
  | .writeSingleBlock =>
    { CardCmd.writeSingleBlock.defaultFields with dataExpected := 1, direction := 1 }
  | .sdSendOpCond => { CardCmd.sdSendOpCond.defaultFields with checkCrc := 0 }
  | .sendScr => { CardCmd.sendScr.defaultFields with dataExpected := 1 }
  | .appCmd => CardCmd.appCmd.defaultFields

/-- The CMD value of a supported card command (R165): `enc_CMD{...} | CMD_EXTRA_BITS`. -/
def cardValue (p : Params) (c : CardCmd) : Word := encCmd p.layout c.fields ||| p.cmdExtraBits

/-- The CMD value of the commit pulse (R163); `CMD_EXTRA_BITS` is not OR-ed in. -/
def commitValue (p : Params) : Word := p.commitClkValue

end Sys2Proof
end

