-- ==== Sys2Proof/WellFormed.lean ====
section
/-! DEFINITION. Well-formed instructions, and well-formed parameter sets: the checks whose failure a model
refuses (93_implementation_defined.md U18, 20_memory.md R64, R72, 30_encoding.md R92,
41_command_encoder.md R163, R165, 00_scope.md R7). -/

namespace Sys2Proof

/-- Every instruction is well formed: an argument, a block index and a buffer handle may have any value (42
R170 "a 32-bit argument", 45 R257 "the raw block index"), and so may a request's length, whose check is the
operation's (45 R254); what an encoding excludes cannot be written down (30
R117). -/
def Instr.wf : Instr → Bool
  | .goIdleState => true
  | .allSendCid => true
  | .sendRelativeAddr => true
  | .selectCard => true
  | .sendIfCond => true
  | .sendCsd => true
  | .readSingleBlock _ _ => true
  | .writeSingleBlock _ _ => true
  | .sdSendOpCond => true
  | .sendScr => true
  | .appCmd _ => true
  | .commitClk => true
  | .init => true
  | .readBlock _ _ => true
  | .writeBlock _ _ => true

/-- Two fields, each (lowest bit, width), share no bit. -/
def apart (p q : Nat × Nat) : Bool := p.1 + p.2 ≤ q.1 || q.1 + q.2 ≤ p.1

/-- The fields of one register are pairwise disjoint (30 R92). -/
def pairwiseApart : List (Nat × Nat) → Bool
  | [] => true
  | p :: rest => rest.all (apart p) && pairwiseApart rest

/-- The fields of one register lie in its lowest `bits` bits and are pairwise disjoint (30 R92). -/
def rangesOk (bits : Nat) (rs : List (Nat × Nat)) : Bool :=
  rs.all (fun p => p.1 + p.2 ≤ bits) && pairwiseApart rs

/-- A layout R92 allows. The sixteen flags of RINTSTS lie in its low half (R101). -/
def Layout.wf (l : Layout) : Bool :=
  rangesOk 32 l.rangesCtrl && rangesOk 32 l.rangesPwren && rangesOk 32 l.rangesClkdiv &&
  rangesOk 32 l.rangesClkena && rangesOk 32 l.rangesCtype && rangesOk 32 l.rangesBlksiz &&
  rangesOk 32 l.rangesBytcnt && rangesOk 32 l.rangesCmd && rangesOk 16 l.rangesRintsts &&
  rangesOk 32 l.rangesStatus && rangesOk 32 l.rangesCdetect && rangesOk 32 l.rangesBmod &&
  rangesOk 32 l.rangesDbaddrl && rangesOk 32 l.rangesDbaddru

/-- The nineteen offsets other than `OFF_DATA`. -/
def Offsets.control (o : Offsets) : List Nat :=
  [o.ctrl, o.pwren, o.clkdiv, o.clkena, o.ctype, o.blksiz, o.bytcnt, o.cmdarg, o.cmd, o.resp0,
   o.resp1, o.resp2, o.resp3, o.rintsts, o.status, o.cdetect, o.bmod, o.dbaddrl, o.dbaddru]

/-- No two entries are equal. -/
def allDistinct : List Nat → Bool
  | [] => true
  | a :: rest => !rest.contains a && allDistinct rest

/-- Every offset a multiple of 4, `OFF_DATA` of `W`, and every access naturally aligned (20 R64). -/
def Params.alignedOk (c : Params) : Bool :=
  c.off.control.all (fun o => o % 4 == 0 && (c.base + o) % 4 == 0) &&
  c.off.data % c.w.bytes == 0 && c.dataAddr % c.w.bytes == 0 && c.off.data % 4 == 0

/-- The twenty addresses are pairwise distinct (20 R72). -/
def Params.distinctOk (c : Params) : Bool := allDistinct (c.off.data :: c.off.control)

/-- `CMD_EXTRA_BITS` must not overlap any named field (41 R165). -/
def Params.extraBitsOk (c : Params) : Bool :=
  c.cmdExtraBits &&& rangesMask c.layout.rangesCmd == 0

/-- `COMMIT_CLK_VALUE` must have `start = 1`, `response_expect = 0`, `data_expected = 0` (41 R163). -/
def Params.commitOk (c : Params) : Bool :=
  cmdStart c.layout c.commitClkValue && !cmdResponseExpect c.layout c.commitClkValue &&
  !cmdDataExpected c.layout c.commitClkValue

/-- `1 ≤ INIT_DIV ≤ 255` (00 R7). -/
def Params.initDivOk (c : Params) : Bool := c.initDiv != 0

/-- `OCR_RETRY_MAX ≥ 1` (00 R7). -/
def Params.retryOk (c : Params) : Bool := 1 ≤ c.ocrRetryMax

/-- `OCR_READY_BIT` and `OCR_CCS_BIT` are bits of a response word (30 R110). -/
def Params.ocrBitsOk (c : Params) : Bool := c.ocrReadyBit < 32 && c.ocrCcsBit < 32

/-- A parameter set the model gives a meaning to; any other is refused (93 U18). `W`,
`UNITS_PER_ACCESS` and `CID_MSW` outside their ranges cannot be written down. -/
def Params.wf (c : Params) : Bool :=
  c.alignedOk && c.distinctOk && c.layout.wf && c.extraBitsOk && c.commitOk && c.initDivOk &&
  c.retryOk && c.ocrBitsOk

end Sys2Proof
end

