-- ==== Sys2Proof/Decode.lean ====
section
/-! DEFINITION. The decoder and the encoder of the operations presented to the block. A CMDREG operation
is recognised as 30_encoding.md R116 says: its CMD value under the mask `0x803F_87FF` equals one row of
the opcode table (default layout). A CLIENTOP operation is the 2-bit code of R114. Operand words follow
the table's word (notes/assumptions/10.md). -/

namespace Sys2Proof

/-- Why an operation is no instruction. -/
inductive Reject
  /-- A card command of an opcode in 0 to 56 that is not supported (30 R117 a, 41 R164). -/
  | unsupported (opcode : Fin 57)
  /-- A CMD value that equals no row of the table (30 R116, R117 b). -/
  | notACommand
  /-- Client operation code 3 (30 R114, R117 d). -/
  | reservedOperation
deriving DecidableEq, Repr

/-- The bits a decoder of CMD values looks at (30 R116). -/
def cmdTableMask : Word := 0x803F87FF

/-- `start` set and the update-clock flag clear: the value is meant as a card command. -/
def looksLikeCard (w0 : Word) : Bool := w0 &&& 0x80200000 == 0x80000000

/-- A CMD value that is no row of the table. -/
def rejectCmd (w0 : Word) : Reject :=
  if h : (w0.extractLsb' 0 6).toNat < 57 then
    if looksLikeCard w0 && (CardCmd.ofOpcode (w0.extractLsb' 0 6).toNat).isNone then
      .unsupported ⟨(w0.extractLsb' 0 6).toNat, h⟩
    else .notACommand
  else .notACommand

/-- Decode a CMD value and its operand words (30 R116). -/
def decodeCmdreg (w0 w1 w2 : Word) : Except Reject Instr :=
  if w0 &&& cmdTableMask = 0x80008000 then .ok .goIdleState
  else if w0 &&& cmdTableMask = 0x800000C2 then .ok .allSendCid
  else if w0 &&& cmdTableMask = 0x80000143 then .ok .sendRelativeAddr
  else if w0 &&& cmdTableMask = 0x80000147 then .ok .selectCard
  else if w0 &&& cmdTableMask = 0x80000148 then .ok .sendIfCond
  else if w0 &&& cmdTableMask = 0x80000049 then .ok .sendCsd
  else if w0 &&& cmdTableMask = 0x80000351 then .ok (.readSingleBlock w1 w2)
  else if w0 &&& cmdTableMask = 0x80000758 then .ok (.writeSingleBlock w1 w2)
  else if w0 &&& cmdTableMask = 0x80000069 then .ok .sdSendOpCond
  else if w0 &&& cmdTableMask = 0x80000373 then .ok .sendScr
  else if w0 &&& cmdTableMask = 0x80000177 then .ok (.appCmd w1)
  else if w0 &&& cmdTableMask = 0x80200000 then .ok .commitClk
  else .error (rejectCmd w0)

/-- Decode a client request (30 R114): a 2-bit code. -/
def decodeClientop (w0 w1 w2 w3 : Word) : Except Reject Instr :=
  if w0.extractLsb' 0 2 = 0 then .ok .init
  else if w0.extractLsb' 0 2 = 1 then .ok (.readBlock w1 ⟨w2, w3⟩)
  else if w0.extractLsb' 0 2 = 2 then .ok (.writeBlock w1 ⟨w2, w3⟩)
  else .error .reservedOperation

/-- The decoder: total, rejecting by name. -/
def decode (o : OpWords) : Except Reject Instr :=
  match o.format with
  | .cmdreg => decodeCmdreg o.w0 o.w1 o.w2
  | .clientop => decodeClientop o.w0 o.w1 o.w2 o.w3

/-- The encoder: the words of an instruction, the CMD values of 30 R116 and the codes of R114. -/
def encode : Instr → OpWords
  | .goIdleState => ⟨.cmdreg, 0x80008000, 0, 0, 0⟩
  | .allSendCid => ⟨.cmdreg, 0x800000C2, 0, 0, 0⟩
  | .sendRelativeAddr => ⟨.cmdreg, 0x80000143, 0, 0, 0⟩
  | .selectCard => ⟨.cmdreg, 0x80000147, 0, 0, 0⟩
  | .sendIfCond => ⟨.cmdreg, 0x80000148, 0, 0, 0⟩
  | .sendCsd => ⟨.cmdreg, 0x80000049, 0, 0, 0⟩
  | .readSingleBlock index buf => ⟨.cmdreg, 0x80000351, index, buf, 0⟩
  | .writeSingleBlock index buf => ⟨.cmdreg, 0x80000758, index, buf, 0⟩
  | .sdSendOpCond => ⟨.cmdreg, 0x80000069, 0, 0, 0⟩
  | .sendScr => ⟨.cmdreg, 0x80000373, 0, 0, 0⟩
  | .appCmd arg => ⟨.cmdreg, 0x80000177, arg, 0, 0⟩
  | .commitClk => ⟨.cmdreg, 0x80202000, 0, 0, 0⟩
  | .init => ⟨.clientop, 0, 0, 0, 0⟩
  | .readBlock index buf => ⟨.clientop, 1, index, buf.handle, buf.len⟩
  | .writeBlock index buf => ⟨.clientop, 2, index, buf.handle, buf.len⟩

/-- The operation whose bits are `w`, as spec/opcode_table.json numbers them: a row of the CLIENTOP format
has fewer than 32 bits; the operand words are bits 63..32, 95..64 and 127..96, zero above
`nbits`. -/
def tableWords (nbits w : Nat) : OpWords :=
  { format := if nbits < 32 then .clientop else .cmdreg
    w0 := BitVec.ofNat 32 (w % 2 ^ nbits)
    w1 := BitVec.ofNat 32 (w % 2 ^ nbits / 2 ^ 32)
    w2 := BitVec.ofNat 32 (w % 2 ^ nbits / 2 ^ 64)
    w3 := BitVec.ofNat 32 (w % 2 ^ nbits / 2 ^ 96) }

/-- The instruction the decoder reads from a table word. -/
def decodeTableWord (nbits w : Nat) : Option Instr :=
  match decode (tableWords nbits w) with
  | .ok i => some i
  | .error _ => none

end Sys2Proof
end

