-- ==== Sys2Proof/Machine/Flags.lean ====
section
/-! DEFINITION. The flags of RINTSTS: the tests the block makes of them, the error mask (30_encoding.md
R101), and the write-1-to-clear law (20_memory.md R66). -/

namespace Sys2Proof

/-- `command_done` of a raw RINTSTS value. -/
def flagCommandDone (l : Layout) (v : Word) : Bool := (decRintsts l v).commandDone = 1

/-- `data_transfer_over`. -/
def flagTransferOver (l : Layout) (v : Word) : Bool := (decRintsts l v).dataTransferOver = 1

/-- `rx_data_request`. -/
def flagRxRequest (l : Layout) (v : Word) : Bool := (decRintsts l v).rxDataRequest = 1

/-- `tx_data_request`. -/
def flagTxRequest (l : Layout) (v : Word) : Bool := (decRintsts l v).txDataRequest = 1

/-- `ERR_MASK`: the OR of the seven error flags (30 R101; `0x0000_A3C2` under the default layout). -/
def errMask (l : Layout) : Word :=
  fieldMask l.rintsts.responseTimeout 1 ||| fieldMask l.rintsts.responseCrcError 1 |||
  fieldMask l.rintsts.responseError 1 ||| fieldMask l.rintsts.dataCrcError 1 |||
  fieldMask l.rintsts.dataTimeout 1 ||| fieldMask l.rintsts.startBitError 1 |||
  fieldMask l.rintsts.endBitError 1

/-- HAS_ERROR (43_response_decoder.md R200): `(v & ERR_MASK) != 0`. -/
def hasError (l : Layout) (v : Word) : Bool := v &&& errMask l != 0

/-- The sixteen flags of a raw RINTSTS value; the upper half is reserved (30 R101). -/
def flagBits : Word := 0x0000FFFF

/-- What a write of `v` leaves of RINTSTS: exactly the flags written as 1 are cleared (20 R66). The
reserved upper half is left as it is. -/
def ackFlags (old v : Word) : Word := old &&& ~~~(v &&& flagBits)

/-- What the controller makes of RINTSTS between two accesses: flags may rise and none falls (20 R66);
the reserved upper half reads as anything (93 U4). -/
def raiseFlags (old up : Word) : Word := (old &&& flagBits) ||| up

/-- The pumps' exit test on a snapshot (42 R177, R178). -/
def pumpExitFlags (l : Layout) (snap : Word) : Bool := flagTransferOver l snap || hasError l snap

end Sys2Proof
end

