-- ==== Sys2Proof/Machine/State.lean ====
section
/-! DEFINITION. The state of the block (10_state.md), the environment's part of it (10 R45), the outcome
types (00_scope.md R10), and State.reset (10 R48, R49). All of it is plain data. -/

namespace Sys2Proof.Machine

/-- The environment's part of the state (10 R45; the oracle of 20 R71). -/
structure Env where
  /-- MODEL's own: the moves the environment makes next. -/
  script : List EnvMove
  /-- MODEL's own: how many moves of `Config.oracle` have been made. -/
  ticks : Nat
  /-- The monotonic clock in milliseconds (60 R284). -/
  clock : Nat
  /-- MODEL's own: while the clock stands still, how many more moves may pass no time (60 R284). -/
  still : Option Nat
  /-- The words in the controller's FIFO, oldest first (20 R70). -/
  fifo : List DWord
  /-- Filled FIFO locations short of a whole word. -/
  residue : Nat
  /-- The command or pulse handed over and not yet accepted (20 R68). -/
  flight : Option Flight
  /-- The CLKDIV value in force at the card clock (20 R69). -/
  cardDiv : Word
  /-- The CLKENA value in force at the card clock (20 R69). -/
  cardEna : Word
deriving DecidableEq, Repr

/-- The protocol states (10 R41, 44 R220) and `Failed` (44 R236). -/
inductive PState
  | powerOn
  | clockReset
  | fifoReset
  | busWidthInit
  | dmaReset
  | idle
  | voltageCheck
  | ocrPoll
  | identify
  | addressAssign
  | readCsd
  | select
  | busWidthQuery
  | ready
  | failed
deriving DecidableEq, Repr

/-- The conditions the block waits for (42 R172, R174, R175, R184, 40 R138). -/
inductive WaitFor
  /-- Step 1: `start = 0`. -/
  | ready
  /-- Step 1 of a data-bearing command: `data_busy = 0`. -/
  | notBusy
  /-- Step 3: `start = 0`. -/
  | accepted
  /-- Step 4: `command_done = 1`. -/
  | done
  /-- The commit pulse: `start = 0`. -/
  | pulse
  /-- A reset request: the bit reads 0. -/
  | reset (f : ResetBit)
deriving DecidableEq, Repr

/-- The three places inside a bounded wait (42 R171). -/
inductive WaitStage
  /-- `t0 <- now()`. -/
  | start
  /-- The condition's register read. -/
  | poll
  /-- `now()` against the deadline. -/
  | check
deriving DecidableEq, Repr

/-- MODEL's own: what the next step of the block is, one port transaction or one internal transition
(00 R12). -/
inductive Phase
  /-- No operation in progress. -/
  | idle
  /-- In a bounded wait. -/
  | wait (w : WaitFor) (stage : WaitStage)
  /-- Step 2: the write of CMDARG. -/
  | writeArg
  /-- Step 2: the write of CMD. -/
  | writeCmd
  /-- Step 5: `t0 <- now()` of a pump. -/
  | pumpStart
  /-- Step 5: the snapshot of RINTSTS. -/
  | pumpSnap
  /-- Step 5: the STATUS read before a word. -/
  | pumpCount
  /-- Step 5: the DATA access. -/
  | pumpMove
  /-- Step 5: `now()` against the deadline. -/
  | pumpTime
  /-- Step 6: the read of RINTSTS. -/
  | ackRead
  /-- Step 6: the write of RINTSTS. -/
  | ackWrite
  /-- Step 7: the reads of RESP0 to RESP3. -/
  | readResp0
  | readResp1
  | readResp2
  | readResp3
  /-- Step 8: classification, no transaction. -/
  | classify
  /-- The commit pulse's write of CMD. -/
  | pulseWrite
  /-- SET_BITS on CTRL: the read. -/
  | resetRead (f : ResetBit)
  /-- SET_BITS on CTRL: the write. -/
  | resetWrite (f : ResetBit)
  /-- ClockReset: `CLKENA <- 0`. -/
  | clockOff
  /-- ClockReset: `CLKDIV <- INIT_DIV`. -/
  | clockDivide
  /-- ClockReset: `CLKENA <- 1`. -/
  | clockOn
  /-- BusWidthInit: `CTYPE <- 0`. -/
  | busWidth
  /-- OcrPoll: the delay between two attempts. -/
  | sleep
  /-- PROGRAM_TXN: the write of BLKSIZ. -/
  | blockSize
  /-- PROGRAM_TXN: the write of BYTCNT. -/
  | byteCount
  /-- The exchange, pulse or reset request of a client operation has returned; no transaction. -/
  | returned
deriving DecidableEq, Repr

/-- MODEL's own: what the running exchange, pulse or reset request was started for. -/
inductive Ctx
  /-- An internal operation by itself (30 R119), or nothing. -/
  | bare
  /-- READ_SINGLE_BLOCK, WRITE_SINGLE_BLOCK and SEND_SCR by themselves, with their PROGRAM_TXN
  (notes/assumptions/35.md). -/
  | readRow
  | writeRow
  | scrRow
  /-- INIT, ClockReset, first and second pulse. -/
  | pulseOff
  | pulseOn
  /-- INIT, FifoReset and DmaReset. -/
  | fifoReset
  | dmaReset
  /-- INIT, the exchange of the state of that name. -/
  | goIdle
  | voltage
  | ocrApp
  | ocrCond
  | identify
  | address
  | csd
  | select
  | scrApp
  | scr
  /-- READ_BLOCK and WRITE_BLOCK. -/
  | readBlock
  | writeBlock
deriving DecidableEq, Repr

/-- What runs is a command row by itself, or nothing runs: no client operation (10 R41). -/
def Ctx.alone : Ctx → Bool
  | .bare | .readRow | .writeRow | .scrRow => true
  | .pulseOff | .pulseOn | .fifoReset | .dmaReset | .goIdle | .voltage | .ocrApp | .ocrCond
  | .identify | .address | .csd | .select | .scrApp | .scr | .readBlock | .writeBlock => false

/-- The phase registers (10 R41). -/
structure PhaseRegs where
  ps : PState
  busy : Bool
  /-- The step of the exchange in progress, 0 when none. -/
  xstep : Fin 9
  phase : Phase
  ctx : Ctx
deriving DecidableEq, Repr

/-- The session registers (10 R42). -/
structure SessionRegs where
  usable : Bool
  /-- 0 legacy version 1.0, 1 version 2.0. -/
  ver : Bool
  hcs : Bool
  ocrAttempts : Nat
  cid : BitVec 128
  rca : BitVec 16
  cardStatus : BitVec 16
deriving DecidableEq, Repr

/-- Where a read data phase puts its words: a client buffer, or the block's own SCR buffer (44 R233). -/
inductive Dest
  | client (buf : Word)
  | scr
deriving DecidableEq, Repr

/-- The Transfer Descriptor (30 R113); `n` is the buffer's length in words. -/
inductive Descriptor
  | none
  | read (dst : Dest) (n : Nat)
  | write (src : Word) (n : Nat)
deriving DecidableEq, Repr

/-- The transfer working registers (10 R43). -/
structure WorkRegs where
  cursor : Nat
  /-- The last value read from RINTSTS. -/
  snap : Word
  t0 : Nat
  resp0 : Word
  resp1 : Word
  resp2 : Word
  resp3 : Word
  td : Descriptor
  cmdval : Word
  arg : Word
  /-- The 8-byte buffer BusWidthQuery reads the SCR into. -/
  scr : DWord
  /-- MODEL's own: the value SET_BITS read and has not yet written back (40 R137). -/
  held : Word
  /-- MODEL's own: the block index of the block operation in progress (45 R252). -/
  index : Word
  /-- MODEL's own: the buffer of the block operation in progress. -/
  buf : Word
deriving DecidableEq, Repr

/-- The result of one exchange (00 R10). -/
inductive XOutcome
  | ok (r0 r1 r2 r3 : Word)
  | failed (flags : BitVec 16)
  | timedOut (step : Fin 9)
deriving DecidableEq, Repr

/-- What an exchange, or a commit pulse or reset request (`Done` or `TimedOut`), answered. -/
inductive OpResult
  | xchg (o : XOutcome)
  | done
  | timedOut
deriving DecidableEq, Repr

/-- The result on the client port (00 R10, 60 R271). `unknownError` is kept as R291 asks; nothing
produces it. -/
inductive Error
  | initError
  | readError
  | writeError
  | timeoutError
  | unknownError
deriving DecidableEq, Repr

/-- A completion on the client port (30 R114). -/
inductive Completion
  | ok
  | err (e : Error)
deriving DecidableEq, Repr

/-- The kinds of contract violation (60 R274). -/
inductive Violation
  | bufferLength
  | secondInit
deriving DecidableEq, Repr

/-- The fatal faults (00 R10, 60 R272). A fault is recorded in `State.fault` by the step that raises it;
every later step answers it, until the block is reset. -/
inductive Fault
  /-- Raised where an opcode of 0 to 56 that is not supported is presented for encoding (60 R273). Safe:
  the spec's own fault. -/
  | unimplementedOperation (opcode : Nat)
  /-- Raised by READ_BLOCK and WRITE_BLOCK, and by READ_SINGLE_BLOCK and WRITE_SINGLE_BLOCK by themselves
  (notes/assumptions/35.md), for a buffer length other than 512, and by INIT when the protocol state is not
  PowerOn (60 R274). Safe: the spec's own fault. -/
  | contractViolation (kind : Violation)
  /-- Raised by the read pump when the buffer is full and the filled count is still at the low-water mark
  or above (60 R275); records the cursor. Safe: the spec's own fault. -/
  | bufferOverrun (cursor : Nat)
deriving DecidableEq, Repr

/-- Situations the spec gives no meaning (93 Part 1, treatment "refuse"). -/
inductive Refusal
  /-- No instruction of this model is refused by this name. Safe. -/
  | notModelled (mnemonic : String)
  /-- Raised by `exec` and `step` for a request presented while an operation is in progress (45 R256,
  U7). Safe: the spec gives it no meaning. -/
  | busy
  /-- Raised by `step` for a parameter set the spec refuses (U18). Safe. -/
  | badParameters
  /-- Raised by `step` at the start of a pump whose Transfer Descriptor does not match the command's data
  flags (30 R113, U17). Safe: no caller passes one. -/
  | descriptorMismatch
  /-- Raised by `step` for client operation code 3 (30 R114, U25). Safe. -/
  | reservedOperation
  /-- Raised by `step` for a word that is no command value (30 R116, R117). Safe. -/
  | notACommand
deriving DecidableEq, Repr

/-- One transaction on a port of the block (00 R12, 10 R46). -/
inductive Txn
  /-- `MemRead(addr, n)` and the value it returned. -/
  | memRead (addr bytes : Nat) (v : DWord)
  /-- `MemWrite(addr, n, v)`. -/
  | memWrite (addr bytes : Nat) (v : DWord)
  /-- `now()` and the milliseconds it returned. -/
  | now (ms : Nat)
  /-- `sleep(d)`. -/
  | sleep (d : Nat)
deriving DecidableEq, Repr

/-- The bytes of the client buffers, sparse: addresses strictly rising, and no entry equal to what an
unlisted address reads as (`unlistedByte` in Sys2Proof/Machine/Ops.lean). -/
abbrev Memory := List Host.Cell

/-- The whole state. -/
structure State where
  /-- MODEL's own: the parameters (00 R7), constant. -/
  cfg : Params
  regs : Regs
  env : Env
  ph : PhaseRegs
  ses : SessionRegs
  wrk : WorkRegs
  /-- Client buffer space (10 R46). -/
  mem : Memory
  /-- The lengths of the client buffers that are not 512 bytes long: (handle, length). For the block rows by
  themselves; a client request carries its length (30 R114). -/
  lens : List (Nat × Nat)
  /-- The request presented to the block and not yet accepted. -/
  port : Option OpWords
  /-- The completion delivered for the last accepted request, none while it runs. -/
  completion : Option Completion
  /-- What the last exchange, pulse or reset request answered. -/
  result : Option OpResult
  /-- The fault that has stopped the block. -/
  fault : Option Fault
  /-- The reset line (70 R310). -/
  resetLine : Bool
  /-- MODEL's own: the port transactions made, newest first. -/
  trace : List Txn
deriving DecidableEq, Repr

/-- The phase registers after reset (10 R48). -/
def PhaseRegs.reset : PhaseRegs :=
  { ps := .powerOn, busy := false, xstep := 0, phase := .idle, ctx := .bare }

/-- The session registers after reset: `usable` and `ocr_attempts` from R48, the others DESIGN CHOICE
(notes/assumptions/6.md). -/
def SessionRegs.reset : SessionRegs :=
  { usable := false, ver := false, hcs := false, ocrAttempts := 0, cid := 0, rca := 0
    cardStatus := 0 }

/-- The working registers after reset: DESIGN CHOICE (notes/assumptions/6.md). -/
def WorkRegs.reset : WorkRegs :=
  { cursor := 0, snap := 0, t0 := 0, resp0 := 0, resp1 := 0, resp2 := 0, resp3 := 0, td := .none
    cmdval := 0, arg := 0, scr := 0, held := 0, index := 0, buf := 0 }

/-- The controller registers at the start: DESIGN CHOICE (notes/assumptions/5.md). R49 asks that the
first read of CTRL, CMD, STATUS, RINTSTS and RESP0 to RESP3 may return any value: `start` and the three
reset bits, which the environment can only lower, stand at 1, everything else at 0. -/
def Regs.reset : Regs :=
  { ctrl := 0x00000007, pwren := 0, clkdiv := 0, clkena := 0, ctype := 0, blksiz := 0, bytcnt := 0
    cmdarg := 0, cmd := 0x80000000, resp0 := 0, resp1 := 0, resp2 := 0, resp3 := 0, rintsts := 0
    status := 0, cdetect := 0, bmod := 0, dbaddrl := 0, dbaddru := 0 }

/-- The environment at the start: DESIGN CHOICE (notes/assumptions/3.md, 5.md). -/
def Env.reset : Env :=
  { script := [], ticks := 0, clock := 0, still := none, fifo := [], residue := 0
    flight := none, cardDiv := 0, cardEna := 0 }

/-- The machine right after reset (10 R48, R49, 70 R311). -/
def State.reset : State :=
  { cfg := Params.default, regs := Regs.reset, env := Env.reset, ph := PhaseRegs.reset
    ses := SessionRegs.reset, wrk := WorkRegs.reset, mem := [], lens := [], port := none
    completion := none, result := none, fault := none, resetLine := false, trace := [] }

end Sys2Proof.Machine
end

