-- ==== Sys2Proof/Machine/Ops.lean ====
section
/-! DEFINITION. The named operations over State: client buffers (20_memory.md R63, R79), the environment's
moves with the laws R66 to R70, the port transactions (40_register_access.md R130 to R133, 60 R284, R285),
raising a fault (60 R272) and delivering a completion (45 R250). -/

namespace Sys2Proof.Machine

/-! ## Client buffers -/

/-- What an unlisted byte of client memory reads as. DESIGN CHOICE (notes/assumptions/12.md), unsafe. -/
def unlistedByte : Byte := 0

/-- One byte. -/
def Memory.read : Memory → Nat → Byte
  | [], _ => unlistedByte
  | (k, b) :: rest, a => if a = k then b else Memory.read rest a

/-- Write one byte, keeping the canonical form. -/
def Memory.write : Memory → Nat → Byte → Memory
  | [], a, b => if b = unlistedByte then [] else [(a, b)]
  | (k, c) :: rest, a, b =>
    if a < k then (if b = unlistedByte then (k, c) :: rest else (a, b) :: (k, c) :: rest)
    else if a = k then (if b = unlistedByte then rest else (a, b) :: rest)
    else (k, c) :: Memory.write rest a b

/-- Addresses strictly rising from `low` on, and no entry equal to the unlisted byte. -/
def Memory.wfFrom : Nat → Memory → Bool
  | _, [] => true
  | low, (k, b) :: rest => decide (low ≤ k) && b != unlistedByte && Memory.wfFrom (k + 1) rest

/-- The canonical form. -/
def Memory.wf (m : Memory) : Bool := Memory.wfFrom 0 m

/-- `n` bytes from `a` on, little-endian: byte `a + j` is bits `[8j+7 : 8j]` (20 R63). -/
def Memory.readLE (m : Memory) (a : Nat) : Nat → DWord
  | 0 => 0
  | n + 1 => (Memory.readLE m (a + 1) n <<< 8) ||| (Memory.read m a).setWidth 64

/-- Write the `n` low bytes of `v` from `a` on, little-endian (20 R63). -/
def Memory.writeLE (m : Memory) (a : Nat) : Nat → DWord → Memory
  | 0, _ => m
  | n + 1, v => Memory.writeLE (Memory.write m a (v.setWidth 8)) (a + 1) n (v >>> 8)

/-- Bytes from `a` on take a free value where the environment gives one (93 U2). -/
def Memory.scribble (m : Memory) (a : Nat) : List (Option Byte) → Memory
  | [] => m
  | none :: rest => Memory.scribble m (a + 1) rest
  | some b :: rest => Memory.scribble (Memory.write m a b) (a + 1) rest

/-- The address of byte `j` of client buffer `h` is `512 * h + j` (notes/assumptions/11.md): buffers with
different handles share no byte. -/
def bufferBase (h : Word) : Nat := blockBytes * h.toNat

/-- The address of word `k` of client buffer `h` (20 R63). -/
def bufferWord (p : Params) (h : Word) (k : Nat) : Nat := bufferBase h + k * p.w.bytes

/-- The length of a buffer in a list of exceptions; an unlisted buffer is 512 bytes long (00 R11). -/
def lengthIn : List (Nat × Nat) → Nat → Nat
  | [], _ => blockBytes
  | (k, n) :: rest, h => if h = k then n else lengthIn rest h

/-- The length of client buffer `h` where an operation carries none: a block row by itself
(notes/assumptions/11.md). -/
def State.bufferLength (s : State) (h : Word) : Nat := lengthIn s.lens h.toNat

/-- Word `k` of the block's own 8-byte SCR buffer, replaced. -/
def scrWrite (p : Params) (scr : DWord) (k : Nat) (v : DWord) : DWord :=
  (scr &&& ~~~(wordMask p.w <<< (8 * p.w.bytes * k))) |||
    ((v &&& wordMask p.w) <<< (8 * p.w.bytes * k))

/-- Client memory after `buf[k] <- v`: a word of the client buffer, or nothing. -/
def destMemory (p : Params) (dst : Dest) (k : Nat) (v : DWord) (m : Memory) : Memory :=
  match dst with
  | .client h => m.writeLE (bufferWord p h k) p.w.bytes v
  | .scr => m

/-- The SCR buffer after `buf[k] <- v`: a word of it, or nothing. -/
def destScr (p : Params) (dst : Dest) (k : Nat) (v : DWord) (scr : DWord) : DWord :=
  match dst with
  | .client _ => scr
  | .scr => scrWrite p scr k v

/-- `buf[k] <- v` of a read data phase (42 R177). -/
def putWord (dst : Dest) (k : Nat) (v : DWord) (s : State) : State :=
  { s with
    mem := destMemory s.cfg dst k v s.mem
    wrk := { s.wrk with scr := destScr s.cfg dst k v s.wrk.scr } }

/-- `buf[k]` of a write data phase (42 R178). -/
def getWord (src : Word) (k : Nat) (s : State) : DWord :=
  s.mem.readLE (bufferWord s.cfg src k) s.cfg.w.bytes

/-! ## The environment (20 R66 to R71) -/

/-- The filled count as STATUS shows it (20 R70): 13 bits. -/
def Env.count (p : Params) (e : Env) : BitVec 13 :=
  BitVec.ofNat 13 (p.units.count * e.fifo.length + e.residue)

/-- CMD between two accesses: `start` can only fall (20 R68); the other bits read as anything. -/
def moveCmd (p : Params) (old up : Word) : Word :=
  (old ||| ~~~fieldMask p.layout.cmd.start 1) &&& up

/-- CTRL between two accesses: a reset bit can only fall (20 R67); the other bits read as anything. -/
def moveCtrl (p : Params) (old up : Word) : Word :=
  (old ||| ~~~resetMask p.layout) &&& up

/-- STATUS: `fifo_count` follows the FIFO (20 R70); the other bits read as anything. -/
def moveStatus (p : Params) (count : BitVec 13) (up : Word) : Word :=
  (up &&& ~~~fieldMask p.layout.status.fifoCount 13) ||| putField p.layout.status.fifoCount count

/-- Whether a move of the environment accepts the value handed over in CMD: `start` falls (20 R68). -/
def accepts (p : Params) (s : State) (m : EnvMove) : Bool :=
  cmdStart p.layout s.regs.cmd && !cmdStart p.layout (moveCmd p s.regs.cmd m.cmd)

/-- Whether a move ends a FIFO reset: the bit falls (20 R67). -/
def fifoResetEnds (p : Params) (s : State) (m : EnvMove) : Bool :=
  ResetBit.reads p.layout s.regs.ctrl .fifo &&
    !ResetBit.reads p.layout (moveCtrl p s.regs.ctrl m.ctrl) .fifo

/-- The FIFO after a move: emptied by the end of a FIFO reset (20 R67), then words leave at the front and
arrive at the back (20 R70). -/
def moveFifo (s : State) (m : EnvMove) : List DWord :=
  (if fifoResetEnds s.cfg s m then [] else s.env.fifo).drop m.taken ++ m.put

/-- Whether the value in flight is the commit pulse (20 R69, 41 R163). -/
def pulseInFlight (s : State) : Bool :=
  match s.env.flight with
  | some f => f.value == commitValue s.cfg
  | none => false

/-- The milliseconds a move passes. Any number, but at least 1 once a standstill has used up its moves: "time eventually
advances past any deadline, so that every bounded wait ends" (60 R284, notes/assumptions/22.md). -/
def passMs : Option Nat → EnvMove → Nat
  | none, m => m.ms
  | some 0, m => max 1 m.ms
  | some (_ + 1), m => m.ms

/-- The moves left of a standstill after a move: one begins with a number the move chooses, and ends when time
passes. -/
def nextStill (still : Option Nat) (m : EnvMove) : Option Nat :=
  if passMs still m = 0 then some (still.elim m.hold (· - 1)) else none

/-- The environment after a move. An accepted commit pulse puts CLKDIV and CLKENA in force (20 R69). -/
def moveEnv (m : EnvMove) (s : State) : Env :=
  { s.env with
    clock := s.env.clock + passMs s.env.still m
    still := nextStill s.env.still m
    fifo := moveFifo s m
    residue := m.residue % s.cfg.units.count
    flight := if accepts s.cfg s m then none else s.env.flight
    cardDiv := if accepts s.cfg s m && pulseInFlight s then s.regs.clkdiv else s.env.cardDiv
    cardEna := if accepts s.cfg s m && pulseInFlight s then s.regs.clkena else s.env.cardEna }

/-- The registers after a move. -/
def moveRegs (m : EnvMove) (s : State) : Regs :=
  { s.regs with
    ctrl := moveCtrl s.cfg s.regs.ctrl m.ctrl
    cmd := moveCmd s.cfg s.regs.cmd m.cmd
    status := moveStatus s.cfg (Env.count s.cfg (moveEnv m s)) m.status
    rintsts := raiseFlags s.regs.rintsts m.rint
    resp0 := m.resp0
    resp1 := m.resp1
    resp2 := m.resp2
    resp3 := m.resp3 }

/-- One move of the environment under the laws R66 to R70 (20 R71, R74). -/
def applyMove (m : EnvMove) (s : State) : State :=
  { s with regs := moveRegs m s, env := moveEnv m s }

/-- The environment's next move: the next listed one, or the next free one. -/
def nextMove (s : State) : EnvMove :=
  match s.env.script with
  | m :: _ => m
  | [] => Config.oracle s.env.ticks

/-- The next move is used up. -/
def dropMove (s : State) : State :=
  { s with
    env := { s.env with
      script := s.env.script.tail
      ticks := if s.env.script.isEmpty then s.env.ticks + 1 else s.env.ticks } }

/-- The environment moves once: what happens before each transaction of the block (20 R74). -/
def envStep (s : State) : State := applyMove (nextMove s) (dropMove s)

/-! ## Port transactions -/

/-- A transaction has been made. -/
def State.log (t : Txn) (s : State) : State := { s with trace := t :: s.trace }

/-- The value of a register. -/
def Regs.get (r : Regs) : Reg → Word
  | .ctrl => r.ctrl
  | .pwren => r.pwren
  | .clkdiv => r.clkdiv
  | .clkena => r.clkena
  | .ctype => r.ctype
  | .blksiz => r.blksiz
  | .bytcnt => r.bytcnt
  | .cmdarg => r.cmdarg
  | .cmd => r.cmd
  | .resp0 => r.resp0
  | .resp1 => r.resp1
  | .resp2 => r.resp2
  | .resp3 => r.resp3
  | .rintsts => r.rintsts
  | .status => r.status
  | .cdetect => r.cdetect
  | .bmod => r.bmod
  | .dbaddrl => r.dbaddrl
  | .dbaddru => r.dbaddru

/-- What a store does to the registers (20 R65): RINTSTS clears the flags written as 1 (R66); STATUS,
CDETECT and the response words are read-only (10 R32, R34, R35); the rest store. -/
def Regs.store (r : Regs) : Reg → Word → Regs
  | .ctrl, v => { r with ctrl := v }
  | .pwren, v => { r with pwren := v }
  | .clkdiv, v => { r with clkdiv := v }
  | .clkena, v => { r with clkena := v }
  | .ctype, v => { r with ctype := v }
  | .blksiz, v => { r with blksiz := v }
  | .bytcnt, v => { r with bytcnt := v }
  | .cmdarg, v => { r with cmdarg := v }
  | .cmd, v => { r with cmd := v }
  | .resp0, _ => r
  | .resp1, _ => r
  | .resp2, _ => r
  | .resp3, _ => r
  | .rintsts, v => { r with rintsts := ackFlags r.rintsts v }
  | .status, _ => r
  | .cdetect, _ => r
  | .bmod, v => { r with bmod := v }
  | .dbaddrl, v => { r with dbaddrl := v }
  | .dbaddru, v => { r with dbaddru := v }

/-- A store to CMD with `start = 1` hands the value and the current CMDARG to the controller (20 R68).
DESIGN CHOICE (notes/assumptions/34.md), unsafe: where an earlier value is still in flight (the commit pulse with
`start` still 1, 70 R320), the spec does not say what becomes of it; the model replaces it, and the next fall of
`start` accepts the new value. -/
def storeFlight (p : Params) (r : Regs) (X : Reg) (v : Word) (old : Option Flight) : Option Flight :=
  if X = .cmd ∧ cmdStart p.layout v = true then some { value := v, arg := r.cmdarg } else old

/-- READ_REG (40 R130): the state after one 32-bit load of register `X`. -/
def readReg (X : Reg) (s : State) : State :=
  (envStep s).log (.memRead (s.cfg.addr X) 4 ((envStep s).regs.get X |>.setWidth 64))

/-- The value READ_REG answers: one sample of the register at the time of the load (20 R60, R74). -/
def readVal (X : Reg) (s : State) : Word := (envStep s).regs.get X

/-- A store applied to the controller, with the transaction recorded. -/
def storeReg (X : Reg) (v : Word) (s : State) : State :=
  State.log (.memWrite (s.cfg.addr X) 4 (v.setWidth 64))
    { s with
      regs := s.regs.store X v
      env := { s.env with flight := storeFlight s.cfg s.regs X v s.env.flight } }

/-- WRITE_REG (40 R131): one 32-bit store of `v` to register `X`. -/
def writeReg (X : Reg) (v : Word) (s : State) : State := storeReg X v (envStep s)

/-- The word READ_FIFO answers (40 R132, 20 R70): the oldest word; on an empty FIFO any value (93 U6). -/
def fifoVal (s : State) : DWord :=
  match (envStep s).env.fifo with
  | v :: _ => v &&& wordMask s.cfg.w
  | [] => (nextMove s).junk &&& wordMask s.cfg.w

/-- READ_FIFO (40 R132): the state after one `W`-byte load of DATA; the oldest word is gone. -/
def fifoRead (s : State) : State :=
  State.log (.memRead s.cfg.dataAddr s.cfg.w.bytes (fifoVal s))
    { envStep s with env := { (envStep s).env with fifo := (envStep s).env.fifo.tail } }

/-- WRITE_FIFO (40 R133): one `W`-byte store to DATA; the word is appended, or lost when the FIFO is full
(93 U6). -/
def fifoWrite (v : DWord) (s : State) : State :=
  State.log (.memWrite s.cfg.dataAddr s.cfg.w.bytes (v &&& wordMask s.cfg.w))
    { envStep s with
      env := { (envStep s).env with
        fifo := if (nextMove s).full then (envStep s).env.fifo
          else (envStep s).env.fifo ++ [v &&& wordMask s.cfg.w] } }

/-- `now()` (60 R284): the state after one read of the time port. -/
def readClock (s : State) : State := (envStep s).log (.now (envStep s).env.clock)

/-- The milliseconds `now()` answers. -/
def clockVal (s : State) : Nat := (envStep s).env.clock

/-- `sleep(d)` (60 R285). -/
def sleepFor (d : Nat) (s : State) : State := (envStep s).log (.sleep d)

/-! ## Control -/

/-- The next step of the block is `p`. -/
def State.goto (p : Phase) (s : State) : State := { s with ph := { s.ph with phase := p } }

/-- Step `k` of the exchange is in progress, and the next step of the block is `p` (42 R170). -/
def State.gotoStep (k : Fin 9) (p : Phase) (s : State) : State :=
  { s with ph := { s.ph with xstep := k, phase := p } }

/-- The protocol state becomes `q`. -/
def State.enter (q : PState) (s : State) : State := { s with ph := { s.ph with ps := q } }

/-- Begin the wait for `w` (42 R171). -/
def State.await (w : WaitFor) (s : State) : State := s.goto (.wait w .start)

/-- Raising a fault (60 R272): it is recorded, `busy` is 1, nothing is delivered; whatever the accesses
made so far left is kept. -/
def raise (f : Fault) (s : State) : State :=
  { s with fault := some f, ph := { s.ph with busy := true } }

/-- Delivering a completion (45 R250): `busy` is 0 and the block is idle. -/
def complete (c : Completion) (s : State) : State :=
  { s with
    completion := some c
    ph := { s.ph with busy := false, xstep := 0, phase := .idle, ctx := .bare } }

/-- The bytes of a client buffer are their old values or any values (93 U2, 20 R79). -/
def spoilBuffer (buf : Word) (s : State) : State :=
  { dropMove s with
    mem := s.mem.scribble (bufferBase buf) ((nextMove s).scribble.take blockBytes) }

/-- A READ_BLOCK in progress will not return `Ok`: nothing holds of its buffer (93 U2). -/
def spoilRead (s : State) : State :=
  { s with
    env := if s.ph.ctx = .readBlock then (spoilBuffer s.wrk.buf s).env else s.env
    mem := if s.ph.ctx = .readBlock then (spoilBuffer s.wrk.buf s).mem else s.mem }

/-- A READ_BLOCK that does not return `Ok`: nothing holds of its buffer (93 U2), and the error is
delivered. -/
def completeFailedRead (buf : Word) (e : Error) (s : State) : State :=
  complete (.err e) (spoilBuffer buf s)

/-- The failure transition of INIT (44 R235). -/
def failInit (s : State) : State :=
  complete (.err .initError)
    { s with ph := { s.ph with ps := .failed }, ses := { s.ses with usable := false } }

/-- An exchange, pulse or reset request returns `r` (42 R181, R182): `xstep` is 0. -/
def finish (r : OpResult) (s : State) : State :=
  { s with
    result := some r
    ph := { s.ph with
      xstep := 0
      phase := if s.ph.ctx.alone then .idle else .returned
      ctx := if s.ph.ctx.alone then .bare else s.ph.ctx } }

/-- The environment after a reset of the block (10 R49): what the controller holds is free; a command is in
flight only where `start` reads 1 (20 R68); the clock goes on (60 R284). -/
def bootEnv (p : Params) (b : Boot) (e : Env) : Env :=
  { e with
    fifo := b.fifo
    residue := b.residue % p.units.count
    flight := if cmdStart p.layout b.regs.cmd then b.flight else none
    cardDiv := b.cardDiv
    cardEna := b.cardEna }

/-- The block's external reset (70 R310, 10 R48): its own registers take their reset values, a request or
operation in progress is abandoned without a completion; every register of the controller is unspecified
(10 R49); the client's buffers stay, but for the buffer of an abandoned READ_BLOCK (93 U2). -/
def blockReset (s : State) : State :=
  { spoilRead s with
    regs := (nextMove s).boot.regs
    env := bootEnv s.cfg (nextMove s).boot (dropMove s).env
    ph := PhaseRegs.reset
    ses := SessionRegs.reset
    wrk := WorkRegs.reset
    port := none
    completion := none
    result := none
    fault := none
    resetLine := false }

/-- No operation is in progress, so a request can be accepted (45 R250, 42 R170). -/
def State.isIdle (s : State) : Bool := s.ph.phase == .idle && !s.ph.busy

/-- Accept an operation, or refuse it while another is in progress (45 R256, 93 U7). -/
def accept (s : State) (t : State) : Host.Outcome State Fault Refusal :=
  if s.isIdle then .next t else .refused .busy

end Sys2Proof.Machine
end

