-- ==== Sys2Proof/Machine/Engine.lean ====
section
/-! DEFINITION. The data transfer engine (42_transfer_engine.md): the bounded wait (R171), the eight steps
of an exchange (R172 to R182), the pumps (R177, R178) and the commit pulse (R184), and REQUEST_RESET
(40_register_access.md R138), which uses the same wait. Each definition is one port transaction or one
internal transition (00_scope.md R12). -/

namespace Sys2Proof.Machine

/-! ## Classification (step 8) -/

/-- The outcome of an exchange whose steps 1 to 7 have been made (42 R181). -/
def classifyOutcome (s : State) : XOutcome :=
  if hasError s.cfg.layout s.wrk.snap then .failed (s.wrk.snap.setWidth 16)
  else .ok s.wrk.resp0 s.wrk.resp1 s.wrk.resp2 s.wrk.resp3

/-- An expired wait of step `k` (42 R182): nothing more is done. -/
def timedOutAt (k : Fin 9) (s : State) : State := finish (.xchg (.timedOut k)) s

/-! ## Entering a step -/

/-- Step 6 (42 R179). -/
def enterStep6 (s : State) : State := s.gotoStep 6 .ackRead

/-- Step 5 (42 R176): no access without a data phase. -/
def enterStep5 (s : State) : State :=
  if cmdDataExpected s.cfg.layout s.wrk.cmdval then s.gotoStep 5 .pumpStart else enterStep6 s

/-- Step 4 (42 R175): no access when no response is expected. -/
def enterStep4 (s : State) : State :=
  if cmdResponseExpect s.cfg.layout s.wrk.cmdval then s.gotoStep 4 (.wait .done .start)
  else enterStep5 s

/-- Step 3 (42 R174). -/
def enterStep3 (s : State) : State := s.gotoStep 3 (.wait .accepted .start)

/-- Step 2 (42 R173). -/
def enterStep2 (s : State) : State := s.gotoStep 2 .writeArg

/-- Step 1 (42 R172). -/
def enterStep1 (s : State) : State := s.gotoStep 1 (.wait .ready .start)

/-! ## The bounded wait (42 R171) -/

/-- The register a condition reads. -/
def WaitFor.reg : WaitFor → Reg
  | .ready => .cmd
  | .notBusy => .status
  | .accepted => .cmd
  | .done => .rintsts
  | .pulse => .cmd
  | .reset _ => .ctrl

/-- Whether the condition holds of the value read. -/
def WaitFor.holds (l : Layout) : WaitFor → Word → Bool
  | .ready, v => !cmdStart l v
  | .notBusy, v => !statusBusy l v
  | .accepted, v => !cmdStart l v
  | .done, v => flagCommandDone l v
  | .pulse, v => !cmdStart l v
  | .reset f, v => !f.reads l v

/-- The wait is `Met`. -/
def waitMet (w : WaitFor) (s : State) : State :=
  match w with
  | .ready =>
    if cmdDataExpected s.cfg.layout s.wrk.cmdval then s.await .notBusy else enterStep2 s
  | .notBusy => enterStep2 s
  | .accepted => enterStep4 s
  | .done => enterStep5 s
  | .pulse => finish .done s
  | .reset _ => finish .done s

/-- The wait is `Expired` (42 R182, R184, 40 R138). -/
def waitExpired (w : WaitFor) (s : State) : State :=
  match w with
  | .ready => timedOutAt 1 s
  | .notBusy => timedOutAt 1 s
  | .accepted => timedOutAt 3 s
  | .done => timedOutAt 4 s
  | .pulse => finish .timedOut s
  | .reset _ => finish .timedOut s

/-- The value of RINTSTS just read is kept as `snap` (10 R43); other registers leave `snap` alone. -/
def noteSnap (X : Reg) (v : Word) (s : State) : State :=
  { s with wrk := { s.wrk with snap := if X = .rintsts then v else s.wrk.snap } }

/-- `t0 <- now()`. -/
def waitBegin (w : WaitFor) (s : State) : State :=
  State.goto (.wait w .poll) { readClock s with wrk := { s.wrk with t0 := clockVal s } }

/-- The condition is tested: one register read. -/
def waitPoll (w : WaitFor) (s : State) : State :=
  if w.holds s.cfg.layout (readVal w.reg s) then
    waitMet w (noteSnap w.reg (readVal w.reg s) (readReg w.reg s))
  else
    State.goto (.wait w .check) (noteSnap w.reg (readVal w.reg s) (readReg w.reg s))

/-- The deadline is tested: `now() - t0 >= TIMEOUT_MS`. -/
def waitCheck (w : WaitFor) (s : State) : State :=
  if s.cfg.timeoutMs ≤ clockVal s - s.wrk.t0 then waitExpired w (readClock s)
  else State.goto (.wait w .poll) (readClock s)

/-- One transaction of a bounded wait. -/
def waitStep (w : WaitFor) (stage : WaitStage) (s : State) : State :=
  match stage with
  | .start => waitBegin w s
  | .poll => waitPoll w s
  | .check => waitCheck w s

/-! ## Step 2 -/

/-- `RegWrite(CMDARG, arg)`. -/
def submitArg (s : State) : State := (writeReg .cmdarg s.wrk.arg s).goto .writeCmd

/-- `RegWrite(CMD, cmdval)`. -/
def submitCmd (s : State) : State := enterStep3 (writeReg .cmd s.wrk.cmdval s)

/-! ## Step 5: the pumps -/

/-- The length in words of the descriptor's buffer. -/
def Descriptor.words : Descriptor → Nat
  | .none => 0
  | .read _ n => n
  | .write _ n => n

/-- Whether a descriptor matches the data flags of a command value (30 R113). -/
def descriptorMatches (l : Layout) (cmdval : Word) : Descriptor → Bool
  | .none => !cmdDataExpected l cmdval
  | .read _ _ => cmdDataExpected l cmdval && !cmdDirectionWrite l cmdval
  | .write _ _ => cmdDataExpected l cmdval && cmdDirectionWrite l cmdval

/-- `cursor <- 0`, `t0 <- now()`; a mismatched descriptor is refused (93 U17). -/
def pumpBegin (s : State) : Host.Outcome State Fault Refusal :=
  if descriptorMatches s.cfg.layout s.wrk.cmdval s.wrk.td then
    .next (State.goto .pumpSnap
      { readClock s with wrk := { s.wrk with t0 := clockVal s, cursor := 0 } })
  else .refused .descriptorMismatch

/-- The exit test on the snapshot (42 R177, R178), then the deadline. -/
def pumpExit (s : State) : State :=
  if pumpExitFlags s.cfg.layout s.wrk.snap then enterStep6 s else s.goto .pumpTime

/-- The head of the inner loop: the read pump reads STATUS before every word (42 R177); the write pump
tests `cursor < n` first (42 R178). -/
def pumpMore (s : State) : State :=
  match s.wrk.td with
  | .none => pumpExit s
  | .read _ _ => s.goto .pumpCount
  | .write _ n => if s.wrk.cursor < n then s.goto .pumpCount else pumpExit s

/-- Whether the snapshot has the data request of the pump's direction. -/
def pumpRequested (l : Layout) (snap : Word) : Descriptor → Bool
  | .none => false
  | .read _ _ => flagRxRequest l snap
  | .write _ _ => flagTxRequest l snap

/-- `snap <- RegRead(RINTSTS)`, and the data request is tested. -/
def pumpSnapshot (s : State) : State :=
  if pumpRequested s.cfg.layout (readVal .rintsts s) s.wrk.td then
    pumpMore (noteSnap .rintsts (readVal .rintsts s) (readReg .rintsts s))
  else
    pumpExit (noteSnap .rintsts (readVal .rintsts s) (readReg .rintsts s))

/-- The filled count is tested: 2 or more to drain (42 R177), below 120 to fill (42 R178). Draining into a
full buffer raises the fault, before the DATA read (60 R275); a READ_BLOCK then never returns `Ok` (93 U2). -/
def pumpCounted (count : Nat) (s : State) : State :=
  match s.wrk.td with
  | .none => pumpExit s
  | .read _ n =>
    if rxLowWater ≤ count then
      if n ≤ s.wrk.cursor then raise (.bufferOverrun s.wrk.cursor) (spoilRead s)
      else s.goto .pumpMove
    else pumpExit s
  | .write _ _ => if count < fifoCap then s.goto .pumpMove else pumpExit s

/-- `RegRead(STATUS)` and the test of its count. -/
def pumpCount (s : State) : State :=
  pumpCounted (statusCount s.cfg.layout (readVal .status s)) (readReg .status s)

/-- `cursor <- cursor + 1`. -/
def State.advanceCursor (s : State) : State :=
  { s with wrk := { s.wrk with cursor := s.wrk.cursor + 1 } }

/-- One word: `buf[cursor] <- FifoRead()` or `FifoWrite(buf[cursor])`, and the cursor advances. -/
def pumpMove (s : State) : State :=
  match s.wrk.td with
  | .none => pumpExit s
  | .read dst _ => pumpMore (putWord dst s.wrk.cursor (fifoVal s) (fifoRead s)).advanceCursor
  | .write src _ => pumpMore (fifoWrite (getWord src s.wrk.cursor s) s).advanceCursor

/-- The pump's deadline (42 R177, R178). -/
def pumpDeadline (s : State) : State :=
  if s.cfg.timeoutMs ≤ clockVal s - s.wrk.t0 then timedOutAt 5 (readClock s)
  else (readClock s).goto .pumpSnap

/-! ## Steps 6 to 8 -/

/-- Step 6, `v <- RegRead(RINTSTS)` (40 R136). -/
def ackRead (s : State) : State :=
  (noteSnap .rintsts (readVal .rintsts s) (readReg .rintsts s)).goto .ackWrite

/-- Step 6, `RegWrite(RINTSTS, v)`, the raw value exactly as read (40 R136). -/
def ackWrite (s : State) : State :=
  (writeReg .rintsts s.wrk.snap s).gotoStep 7 .readResp0

/-- Step 7, RESP0. -/
def respond0 (s : State) : State :=
  State.goto .readResp1 { readReg .resp0 s with wrk := { s.wrk with resp0 := readVal .resp0 s } }

/-- Step 7, RESP1. -/
def respond1 (s : State) : State :=
  State.goto .readResp2 { readReg .resp1 s with wrk := { s.wrk with resp1 := readVal .resp1 s } }

/-- Step 7, RESP2. -/
def respond2 (s : State) : State :=
  State.goto .readResp3 { readReg .resp2 s with wrk := { s.wrk with resp2 := readVal .resp2 s } }

/-- Step 7, RESP3. -/
def respond3 (s : State) : State :=
  State.gotoStep 8 .classify
    { readReg .resp3 s with wrk := { s.wrk with resp3 := readVal .resp3 s } }

/-- Step 8. -/
def classify (s : State) : State := finish (.xchg (classifyOutcome s)) s

/-! ## The commit pulse and the reset requests -/

/-- `RegWrite(CMD, COMMIT_CLK_VALUE)` (42 R184). -/
def writePulse (s : State) : State := (writeReg .cmd (commitValue s.cfg) s).await .pulse

/-- SET_BITS on CTRL, the read (40 R137). -/
def readForReset (f : ResetBit) (s : State) : State :=
  State.goto (.resetWrite f)
    { readReg .ctrl s with wrk := { s.wrk with held := readVal .ctrl s } }

/-- SET_BITS on CTRL, the write of the raw value read with the bit set, then the wait (40 R137, R138). -/
def writeReset (f : ResetBit) (s : State) : State :=
  (writeReg .ctrl (s.wrk.held ||| f.mask s.cfg.layout) s).await (.reset f)

end Sys2Proof.Machine
end

