-- ==== Sys2Proof/Machine/Commands.lean ====
section
/-! DEFINITION. The twelve command rows: the encoder's fault (41_command_encoder.md R164), what each command
starts (the exchange of its CMD value with the argument of 30_encoding.md R107 and the descriptor of
R113), and the meaning of each row as an operation by itself (R119). Starting an exchange is an internal
transition; its steps are the following steps of the block (00_scope.md R12). -/

namespace Sys2Proof.Machine

/-- `encode_cmd` (41 R150): the CMD value of a command, or the fault of R164. -/
def encodeCmd (p : Params) : Command → Except Fault Word
  | .card n =>
    match CardCmd.ofOpcode n.val with
    | some c => .ok (cardValue p c)
    | none => .error (.unimplementedOperation n.val)
  | .commitClk => .ok (commitValue p)

/-- XCHG (42 R170): the operands are in the working registers and step 1 is in progress. -/
def startXchg (c : CardCmd) (arg : Word) (td : Descriptor) (ctx : Ctx) (s : State) : State :=
  enterStep1
    { s with
      wrk := { s.wrk with cmdval := cardValue s.cfg c, arg := arg, td := td }
      ph := { s.ph with ctx := ctx }
      result := none }

/-- GO_IDLE_STATE (41 R152): argument 0, no data phase. -/
def issueGoIdleState (ctx : Ctx) (s : State) : State := startXchg .goIdleState 0 .none ctx s

/-- ALL_SEND_CID (41 R153): argument 0, no data phase. -/
def issueAllSendCid (ctx : Ctx) (s : State) : State := startXchg .allSendCid 0 .none ctx s

/-- SEND_RELATIVE_ADDR (41 R154): argument 0, no data phase. -/
def issueSendRelativeAddr (ctx : Ctx) (s : State) : State :=
  startXchg .sendRelativeAddr 0 .none ctx s

/-- SELECT_CARD (41 R155): argument `rca ++ 0x0000`, no data phase. -/
def issueSelectCard (ctx : Ctx) (s : State) : State :=
  startXchg .selectCard (rcaArg s.ses.rca) .none ctx s

/-- SEND_IF_COND (41 R156): argument `0x1AA`, no data phase. -/
def issueSendIfCond (ctx : Ctx) (s : State) : State := startXchg .sendIfCond ifCondArg .none ctx s

/-- SEND_CSD (41 R157): argument `rca ++ 0x0000`, no data phase. -/
def issueSendCsd (ctx : Ctx) (s : State) : State :=
  startXchg .sendCsd (rcaArg s.ses.rca) .none ctx s

/-- READ_SINGLE_BLOCK (41 R158): argument the raw block index (45 R257), a read of 512 bytes. -/
def issueReadSingleBlock (index buf : Word) (ctx : Ctx) (s : State) : State :=
  startXchg .readSingleBlock index (.read (.client buf) s.cfg.blockWords) ctx s

/-- WRITE_SINGLE_BLOCK (41 R159): argument the raw block index (45 R257), a write of 512 bytes. -/
def issueWriteSingleBlock (index buf : Word) (ctx : Ctx) (s : State) : State :=
  startXchg .writeSingleBlock index (.write buf s.cfg.blockWords) ctx s

/-- SD_SEND_OP_COND (41 R160): argument `OCR_ARG`, no data phase. -/
def issueSdSendOpCond (ctx : Ctx) (s : State) : State :=
  startXchg .sdSendOpCond s.cfg.ocrArg .none ctx s

/-- SEND_SCR (41 R161): argument 0, a read of 8 bytes into the block's own buffer (44 R233). -/
def issueSendScr (ctx : Ctx) (s : State) : State :=
  startXchg .sendScr 0 (.read .scr s.cfg.scrWords) ctx s

/-- APP_CMD (41 R162): the argument it is given (R107), no data phase. -/
def issueAppCmd (arg : Word) (ctx : Ctx) (s : State) : State := startXchg .appCmd arg .none ctx s

/-- COMMIT_CLK (42 R184): the next step writes CMD. -/
def issueCommitClk (ctx : Ctx) (s : State) : State :=
  { s with ph := { s.ph with phase := .pulseWrite, ctx := ctx }, result := none }

/-! ## The data-bearing rows by themselves

DESIGN CHOICE (notes/assumptions/35.md), safe: R170 leaves the programming of BLKSIZ and BYTCNT to an exchange's
caller; a row presented by itself has none, so it programs them first, as 00 R11 and 70 R321 ask of every
data-bearing command, and the two block rows check the length of their buffer as 45 R254 does. -/

/-- PROGRAM_TXN is next (45 R258), on behalf of `ctx`. -/
def startTxn (ctx : Ctx) (s : State) : State :=
  { s with ph := { s.ph with phase := .blockSize, ctx := ctx } }

/-- A block row by itself: the length check (R254), then PROGRAM_TXN. -/
def beginBlockRow (ctx : Ctx) (index buf : Word) (s : State) : State :=
  if s.bufferLength buf ≠ blockBytes then raise (.contractViolation .bufferLength) s
  else startTxn ctx { s with wrk := { s.wrk with index := index, buf := buf }, result := none }

/-! ## The meanings of the command rows -/

def execGoIdleState (s : State) : Host.Outcome State Fault Refusal :=
  accept s (issueGoIdleState .bare s)

def execAllSendCid (s : State) : Host.Outcome State Fault Refusal :=
  accept s (issueAllSendCid .bare s)

def execSendRelativeAddr (s : State) : Host.Outcome State Fault Refusal :=
  accept s (issueSendRelativeAddr .bare s)

def execSelectCard (s : State) : Host.Outcome State Fault Refusal :=
  accept s (issueSelectCard .bare s)

def execSendIfCond (s : State) : Host.Outcome State Fault Refusal :=
  accept s (issueSendIfCond .bare s)

def execSendCsd (s : State) : Host.Outcome State Fault Refusal :=
  accept s (issueSendCsd .bare s)

def execReadSingleBlock (index buf : Word) (s : State) : Host.Outcome State Fault Refusal :=
  accept s (beginBlockRow .readRow index buf s)

def execWriteSingleBlock (index buf : Word) (s : State) : Host.Outcome State Fault Refusal :=
  accept s (beginBlockRow .writeRow index buf s)

def execSdSendOpCond (s : State) : Host.Outcome State Fault Refusal :=
  accept s (issueSdSendOpCond .bare s)

def execSendScr (s : State) : Host.Outcome State Fault Refusal :=
  accept s (startTxn .scrRow { s with result := none })

def execAppCmd (arg : Word) (s : State) : Host.Outcome State Fault Refusal :=
  accept s (issueAppCmd arg .bare s)

def execCommitClk (s : State) : Host.Outcome State Fault Refusal :=
  accept s (issueCommitClk .bare s)

end Sys2Proof.Machine
end

