-- ==== Sys2Proof/Machine/Response.lean ====
section
/-! DEFINITION. The response decoder and the CID decoder (43_response_decoder.md R201 to R207). HAS_ERROR
(R200) is `hasError` in Sys2Proof/Machine/Flags.lean. All pure. -/

namespace Sys2Proof.Machine

/-- SHORT_RESPONSE (R201). -/
def shortResponse : XOutcome → Option Word
  | .ok r0 _ _ _ => some r0
  | .failed _ => none
  | .timedOut _ => none

/-- DECODE_IF_COND (R202): version 2.0 exactly when the echoed pattern is there. -/
def decodeIfCond : XOutcome → Bool
  | .ok r0 _ _ _ => r0.extractLsb' 0 12 == 0x1AA
  | .failed _ => false
  | .timedOut _ => false

/-- DECODE_OCR (R203): the ready bit and the capacity bit. -/
def decodeOcr (p : Params) (r0 : Word) : Bool × Bool :=
  (r0.getLsbD p.ocrReadyBit, r0.getLsbD p.ocrCcsBit)

/-- ASSEMBLE_CID (R204). -/
def assembleCid (p : Params) (r0 r1 r2 r3 : Word) : BitVec 128 :=
  match p.cidMsw with
  | .resp3 => r3 ++ r2 ++ r1 ++ r0
  | .resp0 => r0 ++ r1 ++ r2 ++ r3

/-- DECODE_RCA (R207). -/
def decodeRca (r0 : Word) : BitVec 16 × BitVec 16 := (r0.extractLsb' 16 16, r0.extractLsb' 0 16)

/-- The record DECODE_CID answers (R205). -/
structure CidFields where
  manufacturerId : BitVec 8
  oemId : Byte × Byte
  productName : Byte × Byte × Byte × Byte × Byte
  revMajor : BitVec 4
  revMinor : BitVec 4
  serial : BitVec 32
  year : Nat
  month : BitVec 4
deriving DecidableEq, Repr

/-- DECODE_CID (R205), total; bits [23:20] and [7:0] are ignored. -/
def decodeCid (cid : BitVec 128) : CidFields :=
  { manufacturerId := cid.extractLsb' 120 8
    oemId := (cid.extractLsb' 112 8, cid.extractLsb' 104 8)
    productName :=
      (cid.extractLsb' 96 8, cid.extractLsb' 88 8, cid.extractLsb' 80 8, cid.extractLsb' 72 8,
        cid.extractLsb' 64 8)
    revMajor := cid.extractLsb' 60 4
    revMinor := cid.extractLsb' 56 4
    serial := cid.extractLsb' 24 32
    year := (cid.extractLsb' 12 8).toNat + yearBase
    month := cid.extractLsb' 8 4 }

/-- A decimal numeral without padding, as ASCII codes; `fuel` bounds the number of digits. -/
def decimal : Nat → Nat → List Byte
  | 0, _ => []
  | fuel + 1, n =>
    if n < 10 then [BitVec.ofNat 8 (48 + n)]
    else decimal fuel (n / 10) ++ [BitVec.ofNat 8 (48 + n % 10)]

/-- The texts of FORMAT_CID (R206), as lists of character codes. -/
structure CidTexts where
  oem : List Byte
  product : List Byte
  revision : List Byte
  date : List Byte
deriving DecidableEq, Repr

/-- FORMAT_CID (R206): "major.minor" and "YYYY-M" in decimal without padding. -/
def formatCid (f : CidFields) : CidTexts :=
  { oem := [f.oemId.1, f.oemId.2]
    product :=
      [f.productName.1, f.productName.2.1, f.productName.2.2.1, f.productName.2.2.2.1,
        f.productName.2.2.2.2]
    revision := decimal 4 f.revMajor.toNat ++ [0x2E] ++ decimal 4 f.revMinor.toNat
    date := decimal 4 f.year ++ [0x2D] ++ decimal 4 f.month.toNat }

end Sys2Proof.Machine
end

