-- ==== Sys2Proof/Machine/Client.lean ====
section
/-! DEFINITION. The client operations (45_block_api.md) and the card initialization state machine that INIT
runs (44_init_state_machine.md). -/

namespace Sys2Proof.Machine

/-! ## Client operations: acceptance -/

/-- A request is accepted (45 R250): `busy` is 1 and no completion has been delivered for it. -/
def beginRequest (s : State) : State :=
  { s with completion := none, ph := { s.ph with busy := true } }

/-- REQUEST_RESET is next (40 R138), on behalf of `ctx`. -/
def startReset (f : ResetBit) (ctx : Ctx) (s : State) : State :=
  { s with ph := { s.ph with phase := .resetRead f, ctx := ctx }, result := none }

/-- INIT, accepted (45 R251): a second INIT is a contract violation; else the machine leaves PowerOn for
ClockReset (44 R221, R222). -/
def beginInit (s : State) : State :=
  if s.ph.ps = .powerOn then
    { s with
      ph := { s.ph with ps := .clockReset, phase := .clockOff, ctx := .pulseOff } }
  else raise (.contractViolation .secondInit) s

/-- READ_BLOCK, accepted (45 R252): the check of the length in the request (R254), the usable gate (R255), then
PROGRAM_TXN. -/
def beginReadBlock (index : Word) (buf : ClientBuffer) (s : State) : State :=
  if buf.len.toNat ≠ blockBytes then raise (.contractViolation .bufferLength) s
  else if s.ses.usable = false then completeFailedRead buf.handle .initError s
  else startTxn .readBlock { s with wrk := { s.wrk with index := index, buf := buf.handle } }

/-- WRITE_BLOCK, accepted (45 R253). -/
def beginWriteBlock (index : Word) (buf : ClientBuffer) (s : State) : State :=
  if buf.len.toNat ≠ blockBytes then raise (.contractViolation .bufferLength) s
  else if s.ses.usable = false then complete (.err .initError) s
  else startTxn .writeBlock { s with wrk := { s.wrk with index := index, buf := buf.handle } }

/-- INIT. -/
def execInit (s : State) : Host.Outcome State Fault Refusal :=
  accept s (beginInit (beginRequest s))

/-- READ_BLOCK. -/
def execReadBlock (index : Word) (buf : ClientBuffer) (s : State) :
    Host.Outcome State Fault Refusal :=
  accept s (beginReadBlock index buf (beginRequest s))

/-- WRITE_BLOCK. -/
def execWriteBlock (index : Word) (buf : ClientBuffer) (s : State) :
    Host.Outcome State Fault Refusal :=
  accept s (beginWriteBlock index buf (beginRequest s))

/-! ## PROGRAM_TXN (45 R258) -/

/-- The byte length: 8 for the SCR, 512 for a block. -/
def txnBytes (ctx : Ctx) : Nat :=
  if ctx = .scr ∨ ctx = .scrRow then scrBytes else blockBytes

/-- `RegWrite(BLKSIZ, L)`. -/
def programSize (s : State) : State :=
  (writeReg .blksiz
    (encBlksiz s.cfg.layout { blockSize := BitVec.ofNat 16 (txnBytes s.ph.ctx) }) s).goto .byteCount

/-- The exchange that PROGRAM_TXN prepared. -/
def startData (s : State) : State :=
  match s.ph.ctx with
  | .scr => issueSendScr .scr s
  | .writeBlock => issueWriteSingleBlock s.wrk.index s.wrk.buf .writeBlock s
  | .readBlock => issueReadSingleBlock s.wrk.index s.wrk.buf .readBlock s
  | .scrRow => issueSendScr .scrRow s
  | .writeRow => issueWriteSingleBlock s.wrk.index s.wrk.buf .writeRow s
  | .readRow => issueReadSingleBlock s.wrk.index s.wrk.buf .readRow s
  | .bare | .pulseOff | .pulseOn | .fifoReset | .dmaReset | .goIdle | .voltage | .ocrApp
  | .ocrCond | .identify | .address | .csd | .select | .scrApp => s.goto .idle

/-- `RegWrite(BYTCNT, L)`. -/
def programCount (s : State) : State :=
  startData (writeReg .bytcnt
    (encBytcnt s.cfg.layout { byteCount := BitVec.ofNat 32 (txnBytes s.ph.ctx) }) s)

/-! ## The initialization state machine -/

/-- ClockReset: `CLKENA <- 0`, then the first pulse (44 R222). -/
def clockOff (s : State) : State := issueCommitClk .pulseOff (writeReg .clkena 0 s)

/-- ClockReset: `CLKDIV <- enc{divider = INIT_DIV}` (44 R222). -/
def clockDivide (s : State) : State :=
  (writeReg .clkdiv (encClkdiv s.cfg.layout { divider := s.cfg.initDiv }) s).goto .clockOn

/-- ClockReset: `CLKENA <- enc{cclk_enable = 1}`, then the second pulse (44 R222). -/
def clockOn (s : State) : State :=
  issueCommitClk .pulseOn (writeReg .clkena (encClkena s.cfg.layout { cclkEnable := 1 }) s)

/-- BusWidthInit: `CTYPE <- enc{width4 = 0, width8 = 0}`, then DmaReset (44 R224). -/
def busWidth (s : State) : State :=
  startReset .dma .dmaReset
    ((writeReg .ctype (encCtype s.cfg.layout { width4 := 0, width8 := 0 }) s).enter .dmaReset)

/-- OcrPoll: the next attempt begins (44 R228). -/
def ocrAttempt (s : State) : State :=
  issueAppCmd 0 .ocrApp
    { s with ses := { s.ses with ocrAttempts := s.ses.ocrAttempts + 1 } }

/-- OcrPoll: the attempt failed (44 R228); the last one fails INIT, any other is followed by the delay. -/
def ocrRetry (s : State) : State :=
  if s.cfg.ocrRetryMax ≤ s.ses.ocrAttempts then failInit s else s.goto .sleep

/-- OcrPoll: the delay, then the next attempt. -/
def ocrSleep (s : State) : State := ocrAttempt (sleepFor s.cfg.ocrDelay s)

/-- Ready (44 R234): the card is usable and INIT completes with `Ok`. -/
def becomeReady (s : State) : State :=
  complete .ok
    { s with ph := { s.ph with ps := .ready }, ses := { s.ses with usable := true } }

/-- Whether the pulse or reset request answered `Done`. -/
def resultDone : Option OpResult → Bool
  | some .done => true
  | some .timedOut => false
  | some (.xchg _) => false
  | none => false

/-- The outcome of the exchange that returned; no exchange counts as an expired one. -/
def resultOutcome : Option OpResult → XOutcome
  | some (.xchg o) => o
  | some .done => .timedOut 0
  | some .timedOut => .timedOut 0
  | none => .timedOut 0

/-- ClockReset after its first pulse. -/
def afterPulseOff (s : State) : State :=
  if resultDone s.result then s.goto .clockDivide else failInit s

/-- ClockReset after its second pulse: FifoReset (44 R223). -/
def afterPulseOn (s : State) : State :=
  if resultDone s.result then startReset .fifo .fifoReset (s.enter .fifoReset) else failInit s

/-- FifoReset after its request: BusWidthInit (44 R224). -/
def afterFifoReset (s : State) : State :=
  if resultDone s.result then (s.enter .busWidthInit).goto .busWidth else failInit s

/-- DmaReset after its request: Idle (44 R226). -/
def afterDmaReset (s : State) : State :=
  if resultDone s.result then issueGoIdleState .goIdle (s.enter .idle) else failInit s

/-- Idle after its exchange: VoltageCheck (44 R227). -/
def afterGoIdle (s : State) : State :=
  match resultOutcome s.result with
  | .ok _ _ _ _ => issueSendIfCond .voltage (s.enter .voltageCheck)
  | .failed _ => failInit s
  | .timedOut _ => failInit s

/-- VoltageCheck after its exchange, whatever it answered: `ver` is recorded and OcrPoll begins with its
first attempt (44 R227, R228). -/
def afterVoltage (s : State) : State :=
  ocrAttempt
    { s.enter .ocrPoll with
      ses := { s.ses with ver := decodeIfCond (resultOutcome s.result), ocrAttempts := 0 } }

/-- OcrPoll after APP_CMD: SD_SEND_OP_COND only when the prefix was `Ok` (44 R228). -/
def afterOcrApp (s : State) : State :=
  match resultOutcome s.result with
  | .ok _ _ _ _ => issueSdSendOpCond .ocrCond s
  | .failed _ => ocrRetry s
  | .timedOut _ => ocrRetry s

/-- OcrPoll after SD_SEND_OP_COND: when ready, `hcs` is recorded and Identify begins (44 R228, R229). -/
def afterOcrCond (s : State) : State :=
  match resultOutcome s.result with
  | .ok r0 _ _ _ =>
    if (decodeOcr s.cfg r0).1 then
      issueAllSendCid .identify
        { s.enter .identify with ses := { s.ses with hcs := (decodeOcr s.cfg r0).2 } }
    else ocrRetry s
  | .failed _ => ocrRetry s
  | .timedOut _ => ocrRetry s

/-- Identify after its exchange: `cid` is recorded and AddressAssign begins (44 R229, R230). The decoded CID
goes to the diagnostic port only, which is not modelled (10 R46). -/
def afterIdentify (s : State) : State :=
  match resultOutcome s.result with
  | .ok r0 r1 r2 r3 =>
    issueSendRelativeAddr .address
      { s.enter .addressAssign with ses := { s.ses with cid := assembleCid s.cfg r0 r1 r2 r3 } }
  | .failed _ => failInit s
  | .timedOut _ => failInit s

/-- AddressAssign after its exchange: `rca` and `card_status` are recorded and ReadCSD begins (44 R230,
R231). -/
def afterAddress (s : State) : State :=
  match resultOutcome s.result with
  | .ok r0 _ _ _ =>
    issueSendCsd .csd
      { s.enter .readCsd with
        ses := { s.ses with rca := (decodeRca r0).1, cardStatus := (decodeRca r0).2 } }
  | .failed _ => failInit s
  | .timedOut _ => failInit s

/-- ReadCSD after its exchange: Select (44 R231, R232). The response is discarded (43 R208). -/
def afterCsd (s : State) : State :=
  match resultOutcome s.result with
  | .ok _ _ _ _ => issueSelectCard .select (s.enter .select)
  | .failed _ => failInit s
  | .timedOut _ => failInit s

/-- Select after its exchange: BusWidthQuery (44 R232, R233). -/
def afterSelect (s : State) : State :=
  match resultOutcome s.result with
  | .ok _ _ _ _ => issueAppCmd (rcaArg s.ses.rca) .scrApp (s.enter .busWidthQuery)
  | .failed _ => failInit s
  | .timedOut _ => failInit s

/-- BusWidthQuery after APP_CMD: SEND_SCR only when the prefix was `Ok`, else Ready (44 R233). -/
def afterScrApp (s : State) : State :=
  match resultOutcome s.result with
  | .ok _ _ _ _ => startTxn .scr s
  | .failed _ => becomeReady s
  | .timedOut _ => becomeReady s

/-- BusWidthQuery after SEND_SCR, whatever it answered: Ready (44 R233, R234). -/
def afterScr (s : State) : State := becomeReady s

/-- READ_BLOCK after its exchange (45 R252). -/
def afterReadBlock (s : State) : State :=
  match resultOutcome s.result with
  | .ok _ _ _ _ => complete .ok s
  | .failed _ => completeFailedRead s.wrk.buf .readError s
  | .timedOut _ => completeFailedRead s.wrk.buf .timeoutError s

/-- WRITE_BLOCK after its exchange (45 R253). -/
def afterWriteBlock (s : State) : State :=
  match resultOutcome s.result with
  | .ok _ _ _ _ => complete .ok s
  | .failed _ => complete (.err .writeError) s
  | .timedOut _ => complete (.err .timeoutError) s

/-- What follows when an exchange, pulse or reset request of a client operation has returned. -/
def resume (s : State) : State :=
  match s.ph.ctx with
  | .bare | .readRow | .writeRow | .scrRow => s.goto .idle
  | .pulseOff => afterPulseOff s
  | .pulseOn => afterPulseOn s
  | .fifoReset => afterFifoReset s
  | .dmaReset => afterDmaReset s
  | .goIdle => afterGoIdle s
  | .voltage => afterVoltage s
  | .ocrApp => afterOcrApp s
  | .ocrCond => afterOcrCond s
  | .identify => afterIdentify s
  | .address => afterAddress s
  | .csd => afterCsd s
  | .select => afterSelect s
  | .scrApp => afterScrApp s
  | .scr => afterScr s
  | .readBlock => afterReadBlock s
  | .writeBlock => afterWriteBlock s

/-! ## One step of an operation in progress -/

/-- The next transaction or internal transition of the operation in progress (00 R12). -/
def advance (s : State) : Host.Outcome State Fault Refusal :=
  match s.ph.phase with
  | .idle => .next s
  | .wait w stage => .next (waitStep w stage s)
  | .writeArg => .next (submitArg s)
  | .writeCmd => .next (submitCmd s)
  | .pumpStart => pumpBegin s
  | .pumpSnap => .next (pumpSnapshot s)
  | .pumpCount => .next (pumpCount s)
  | .pumpMove => .next (pumpMove s)
  | .pumpTime => .next (pumpDeadline s)
  | .ackRead => .next (ackRead s)
  | .ackWrite => .next (ackWrite s)
  | .readResp0 => .next (respond0 s)
  | .readResp1 => .next (respond1 s)
  | .readResp2 => .next (respond2 s)
  | .readResp3 => .next (respond3 s)
  | .classify => .next (classify s)
  | .pulseWrite => .next (writePulse s)
  | .resetRead f => .next (readForReset f s)
  | .resetWrite f => .next (writeReset f s)
  | .clockOff => .next (clockOff s)
  | .clockDivide => .next (clockDivide s)
  | .clockOn => .next (clockOn s)
  | .busWidth => .next (busWidth s)
  | .sleep => .next (ocrSleep s)
  | .blockSize => .next (programSize s)
  | .byteCount => .next (programCount s)
  | .returned => .next (resume s)

end Sys2Proof.Machine
end

