-- ==== Sys2Proof/Machine/Dispatch.lean ====
section
/-! DEFINITION. The dispatch: one arm per constructor of Instr, each one direct call of its meaning. -/

namespace Sys2Proof.Machine

def exec (i : Instr) (s : State) : Host.Outcome State Fault Refusal :=
  match i with
  | .goIdleState => Sys2Proof.Machine.execGoIdleState s
  | .allSendCid => Sys2Proof.Machine.execAllSendCid s
  | .sendRelativeAddr => Sys2Proof.Machine.execSendRelativeAddr s
  | .selectCard => Sys2Proof.Machine.execSelectCard s
  | .sendIfCond => Sys2Proof.Machine.execSendIfCond s
  | .sendCsd => Sys2Proof.Machine.execSendCsd s
  | .readSingleBlock index buf => Sys2Proof.Machine.execReadSingleBlock index buf s
  | .writeSingleBlock index buf => Sys2Proof.Machine.execWriteSingleBlock index buf s
  | .sdSendOpCond => Sys2Proof.Machine.execSdSendOpCond s
  | .sendScr => Sys2Proof.Machine.execSendScr s
  | .appCmd arg => Sys2Proof.Machine.execAppCmd arg s
  | .commitClk => Sys2Proof.Machine.execCommitClk s
  | .init => Sys2Proof.Machine.execInit s
  | .readBlock index buf => Sys2Proof.Machine.execReadBlock index buf s
  | .writeBlock index buf => Sys2Proof.Machine.execWriteBlock index buf s

end Sys2Proof.Machine
end

