-- ==== Sys2Proof/Machine/Fetch.lean ====
section
/-! DEFINITION. Accepting the operation presented at the port, and what becomes of one that is no
instruction (45_block_api.md R250, 30_encoding.md R117). -/

namespace Sys2Proof.Machine

/-- The request is taken from the port. -/
def takeRequest (s : State) : State := { s with port := none }

/-- An operation that is no instruction: an unsupported opcode raises the encoder's fault (41 R164, 60
R273), anything else is refused by name (30 R114, R117). -/
def rejectRequest (r : Reject) (s : State) : Host.Outcome State Fault Refusal :=
  match r with
  | .unsupported n =>
    match encodeCmd s.cfg (.card n) with
    | .error f => .next (raise f s)
    | .ok _ => .refused .notACommand
  | .notACommand => .refused .notACommand
  | .reservedOperation => .refused .reservedOperation

/-- An operation is presented to an idle block (notes/assumptions/9.md). -/
def presentWords (o : OpWords) (s : State) : State :=
  { s with
    port := some o
    fault := none
    resetLine := false
    ph := { s.ph with phase := .idle, busy := false } }

end Sys2Proof.Machine
end

