-- ==== Sys2Proof/Machine/Step.lean ====
section
/-! DEFINITION. One step of the machine: one port transaction or one internal transition (00_scope.md
R12). -/

namespace Sys2Proof.Machine

/-- One step. The reset line comes first (70 R310); a parameter set the spec refuses is refused (93 U18); a
faulted block answers its fault (60 R272); an idle block waits for a request, accepts it and runs the
decoded instruction (45 R250, 70 R311); otherwise the operation in progress goes on, and a request
presented meanwhile is refused (45 R256). -/
def step (s : State) : Host.Outcome State Fault Refusal :=
  if s.resetLine then .next (blockReset s)
  else if s.cfg.wf = false then .refused .badParameters
  else
    match s.fault with
    | some f => .fault f
    | none =>
      if s.isIdle then
        match s.port with
        | none => .next s
        | some o =>
          match decode o with
          | .ok i => exec i (takeRequest s)
          | .error r => rejectRequest r (takeRequest s)
      else
        match s.port with
        | some _ => .refused .busy
        | none => advance s

/-- `s` with the operation whose bits are `w` presented to an idle block, so that the next step runs it
(notes/assumptions/9.md). An idle, unfaulted block only gets the request. -/
def State.withFetchWord (s : State) (nbits w : Nat) : State := presentWords (tableWords nbits w) s

end Sys2Proof.Machine
end

