-- ==== Sys2Proof/Safety.lean ====
section
/-! DEFINITION. What a safe run is, in the terms the statements use: the sequencing invariant (10_state.md
R41, R42, 44_init_state_machine.md R220), the buffer invariant (42_transfer_engine.md R177, R178,
70_reset_and_hazards.md R318), the programming of a data transfer (00_scope.md R11), the bytes a step may
store to, and the tables of the spec the statements compare the meanings with. -/

namespace Sys2Proof.Machine

/-! ## Sequencing -/

/-- The step of an exchange a phase belongs to, 0 when none (10 R41). -/
def Phase.xstep : Phase → Fin 9
  | .idle => 0
  | .wait .ready _ => 1
  | .wait .notBusy _ => 1
  | .wait .accepted _ => 3
  | .wait .done _ => 4
  | .wait .pulse _ => 0
  | .wait (.reset _) _ => 0
  | .writeArg => 2
  | .writeCmd => 2
  | .pumpStart => 5
  | .pumpSnap => 5
  | .pumpCount => 5
  | .pumpMove => 5
  | .pumpTime => 5
  | .ackRead => 6
  | .ackWrite => 6
  | .readResp0 => 7
  | .readResp1 => 7
  | .readResp2 => 7
  | .readResp3 => 7
  | .classify => 8
  | .pulseWrite => 0
  | .resetRead _ => 0
  | .resetWrite _ => 0
  | .clockOff => 0
  | .clockDivide => 0
  | .clockOn => 0
  | .busWidth => 0
  | .sleep => 0
  | .blockSize => 0
  | .byteCount => 0
  | .returned => 0

/-- An exchange can be running for this. -/
def Ctx.forXchg : Ctx → Bool
  | .bare | .readRow | .writeRow | .scrRow | .goIdle | .voltage | .ocrApp | .ocrCond | .identify
  | .address | .csd | .select
  | .scrApp | .scr | .readBlock | .writeBlock => true
  | .pulseOff | .pulseOn | .fifoReset | .dmaReset => false

/-- A commit pulse can be running for this. -/
def Ctx.forPulse : Ctx → Bool
  | .bare | .pulseOff | .pulseOn => true
  | .goIdle | .voltage | .ocrApp | .ocrCond | .identify | .address | .csd | .select | .scrApp
  | .scr | .readBlock | .writeBlock | .readRow | .writeRow | .scrRow | .fifoReset
  | .dmaReset => false

/-- What runs on behalf of a data-bearing command: INIT's SEND_SCR, READ_BLOCK, WRITE_BLOCK, and the three
data-bearing rows by themselves. -/
def Ctx.forData : Ctx → Bool
  | .scr | .readBlock | .writeBlock | .readRow | .writeRow | .scrRow => true
  | .bare | .pulseOff | .pulseOn | .fifoReset | .dmaReset | .goIdle | .voltage | .ocrApp
  | .ocrCond | .identify | .address | .csd | .select | .scrApp => false

/-- What a reset request is made for. -/
def resetCtx : ResetBit → Ctx
  | .fifo => .fifoReset
  | .dma => .dmaReset

/-- A phase and what it is running for agree. -/
def phaseFits (c : Ctx) : Phase → Bool
  | .idle => c == .bare
  | .wait .pulse _ => c.forPulse
  | .wait (.reset f) _ => c == resetCtx f
  | .wait .ready _ | .wait .notBusy _ | .wait .accepted _ | .wait .done _ => c.forXchg
  | .writeArg | .writeCmd | .pumpStart | .pumpSnap | .pumpCount | .pumpMove | .pumpTime
  | .ackRead | .ackWrite | .readResp0 | .readResp1 | .readResp2 | .readResp3 | .classify =>
    c.forXchg
  | .pulseWrite => c.forPulse
  | .resetRead f | .resetWrite f => c == resetCtx f
  | .clockOff | .clockDivide | .clockOn => c == .pulseOff
  | .busWidth => c == .fifoReset
  | .sleep => c == .ocrApp || c == .ocrCond
  | .blockSize | .byteCount => c.forData
  | .returned => !c.alone

/-- The protocol states in which no INIT is running. -/
def PState.settled (q : PState) : Bool := q == .powerOn || q == .ready || q == .failed

/-- The protocol state agrees with what is running (44 R220). -/
def stateFits (q : PState) : Ctx → Bool
  | .bare | .readRow | .writeRow | .scrRow => q.settled
  | .pulseOff => q == .clockReset
  | .pulseOn => q == .clockReset
  | .fifoReset => q == .fifoReset || q == .busWidthInit
  | .dmaReset => q == .dmaReset
  | .goIdle => q == .idle
  | .voltage => q == .voltageCheck
  | .ocrApp => q == .ocrPoll
  | .ocrCond => q == .ocrPoll
  | .identify => q == .identify
  | .address => q == .addressAssign
  | .csd => q == .readCsd
  | .select => q == .select
  | .scrApp => q == .busWidthQuery
  | .scr => q == .busWidthQuery
  | .readBlock => q == .ready
  | .writeBlock => q == .ready

/-- The sequencing registers agree with each other. -/
structure SeqInv (s : State) : Prop where
  /-- `xstep` is the step in progress, 0 when none (10 R41). -/
  xstep_eq : s.ph.xstep = s.ph.phase.xstep
  phase_fits : phaseFits s.ph.ctx s.ph.phase = true
  state_fits : stateFits s.ph.ps s.ph.ctx = true
  /-- FifoReset has become BusWidthInit exactly at the write of CTYPE (44 R223, R224). -/
  width_state : s.ph.ps = .busWidthInit ↔ s.ph.phase = .busWidth
  /-- `busy` is set while a client operation is in progress, and stays set after a fault (10 R41, 60
  R272). -/
  busy_eq : s.ph.busy = (s.fault.isSome || !s.ph.ctx.alone)
  /-- `usable` is "set on reaching Ready, clear otherwise" (10 R42). -/
  usable_eq : s.ses.usable = (s.ph.ps == .ready)
  /-- The command of an exchange is "a 32-bit CMD value from `encode_cmd`" (42 R170). -/
  encoded : s.ph.xstep ≠ 0 → ∃ c, s.wrk.cmdval = cardValue s.cfg c

/-- OcrPoll never makes more than `OCR_RETRY_MAX` attempts (44 R228, 70 R329). -/
structure OcrInv (s : State) : Prop where
  attempts_le : s.ph.ps = .ocrPoll → s.ses.ocrAttempts ≤ s.cfg.ocrRetryMax
  /-- The delay is taken only when another attempt is allowed. -/
  sleep_lt : s.ph.phase = .sleep → s.ses.ocrAttempts < s.cfg.ocrRetryMax

/-- The successor states of the sequence (44 R220): the next state in order, OcrPoll to itself, and the
edge to Failed of the mandatory states (R235). -/
def PState.edge : PState → PState → Bool
  | .powerOn, q => q == .clockReset
  | .clockReset, q => q == .fifoReset || q == .failed
  | .fifoReset, q => q == .busWidthInit || q == .failed
  | .busWidthInit, q => q == .dmaReset
  | .dmaReset, q => q == .idle || q == .failed
  | .idle, q => q == .voltageCheck || q == .failed
  | .voltageCheck, q => q == .ocrPoll
  | .ocrPoll, q => q == .identify || q == .failed
  | .identify, q => q == .addressAssign || q == .failed
  | .addressAssign, q => q == .readCsd || q == .failed
  | .readCsd, q => q == .select || q == .failed
  | .select, q => q == .busWidthQuery || q == .failed
  | .busWidthQuery, q => q == .ready
  | .ready, _ => false
  | .failed, _ => false

/-! ## Buffers -/

/-- The descriptor's length is its buffer's length in words (30 R113): 512 bytes for a client buffer, 8 for
the SCR. -/
def Descriptor.sized (p : Params) : Descriptor → Bool
  | .none => true
  | .read (.client _) n => n == p.blockWords
  | .read .scr n => n == p.scrWords
  | .write _ n => n == p.blockWords

/-- The descriptor is one of a write phase. -/
def Descriptor.isWrite : Descriptor → Bool
  | .none => false
  | .read _ _ => false
  | .write _ _ => true

/-- A pump never moves a word outside the descriptor's buffer (42 R177, R178). -/
structure PumpInv (s : State) : Prop where
  sized : s.wrk.td.sized s.cfg = true
  /-- `0 ≤ cursor ≤ n` in a pump (10 R43). -/
  cursor_le : s.ph.phase = .pumpSnap ∨ s.ph.phase = .pumpCount ∨ s.ph.phase = .pumpTime →
    s.wrk.cursor ≤ s.wrk.td.words
  /-- A word is moved only while the cursor is inside the buffer. -/
  move_lt : s.ph.phase = .pumpMove → s.wrk.cursor < s.wrk.td.words
  /-- The write pump reads STATUS only while source words remain. -/
  fill_lt : s.ph.phase = .pumpCount → s.wrk.td.isWrite = true → s.wrk.cursor < s.wrk.td.words

/-- The byte length PROGRAM_TXN has written for a data-bearing command. -/
def programmed (s : State) : Prop :=
  s.regs.blksiz =
      encBlksiz s.cfg.layout { blockSize := BitVec.ofNat 16 (txnBytes s.ph.ctx) } ∧
    s.regs.bytcnt =
      encBytcnt s.cfg.layout { byteCount := BitVec.ofNat 32 (txnBytes s.ph.ctx) }

/-- "a data-bearing command is always preceded by programming the matching block-size/byte-count
registers" (00 R11). -/
structure TxnInv (s : State) : Prop where
  sized : s.ph.phase = .byteCount → s.regs.blksiz =
    encBlksiz s.cfg.layout { blockSize := BitVec.ofNat 16 (txnBytes s.ph.ctx) }
  matching : s.ph.xstep ≠ 0 → s.ph.ctx.forData = true → programmed s
  /-- No data-bearing command is sent in any other way. -/
  data_only : s.ph.xstep ≠ 0 → cmdDataExpected s.cfg.layout s.wrk.cmdval = true →
    s.ph.ctx.forData = true

/-- A value is in flight only while `start` reads 1 (20 R68). -/
def flightFits (s : State) : Prop :=
  s.env.flight.isSome = true → cmdStart s.cfg.layout s.regs.cmd = true

/-- The bytes of a client buffer. -/
def inBuffer (h : Word) (a : Nat) : Prop := bufferBase h ≤ a ∧ a < bufferBase h + blockBytes

/-- The outcome of the exchange that returned was not `Ok`. -/
def exchangeFailed (s : State) : Bool :=
  match resultOutcome s.result with
  | .ok _ _ _ _ => false
  | .failed _ => true
  | .timedOut _ => true

/-- The next step of the read pump raises the fault of 60 R275. -/
def overruns (s : State) : Prop :=
  s.ph.phase = .pumpCount ∧ ∃ dst n, s.wrk.td = .read dst n ∧ n ≤ s.wrk.cursor ∧
    rxLowWater ≤ statusCount s.cfg.layout (readVal .status s)

/-- The bytes the next step may store to (20 R79): the word the read pump is moving into a client buffer;
the bytes of the buffer of a READ_BLOCK that does not return `Ok`: failed, timed out, stopped at the usable gate,
overrun, or abandoned by a reset (93 U2). -/
def mayStore (s : State) (a : Nat) : Prop :=
  (s.ph.phase = .pumpMove ∧ ∃ h n, s.wrk.td = .read (.client h) n ∧
    bufferWord s.cfg h s.wrk.cursor ≤ a ∧
    a < bufferWord s.cfg h s.wrk.cursor + s.cfg.w.bytes) ∨
  (s.ph.phase = .returned ∧ s.ph.ctx = .readBlock ∧ exchangeFailed s = true ∧
    inBuffer s.wrk.buf a) ∨
  (s.ph.ctx = .readBlock ∧ (overruns s ∨ s.resetLine = true) ∧ inBuffer s.wrk.buf a) ∨
  (s.isIdle = true ∧ s.ses.usable = false ∧
    ∃ o index buf, s.port = some o ∧ decode o = .ok (.readBlock index buf) ∧
      buf.len.toNat = blockBytes ∧ inBuffer buf.handle a)

/-! ## Pumps -/

/-- A move that leaves the FIFO alone (20 R70). -/
def fifoQuiet (m : EnvMove) : Prop := m.taken = 0 ∧ m.put = [] ∧ m.residue = 0

/-- A move in which the controller takes at least one word, brings none, and has room for one (20 R70). -/
def fifoTakes (m : EnvMove) : Prop := 1 ≤ m.taken ∧ m.put = [] ∧ m.residue = 0 ∧ m.full = false

/-- Client memory after the words `vs` went to a read destination from word `k` on (20 R63, R79). -/
def fillMemory (p : Params) (dst : Dest) : Nat → List DWord → Memory → Memory
  | _, [], m => m
  | k, v :: vs, m => fillMemory p dst (k + 1) vs (destMemory p dst k (v &&& wordMask p.w) m)

/-- The SCR buffer after the words `vs` went to a read destination from word `k` on. -/
def fillScr (p : Params) (dst : Dest) : Nat → List DWord → DWord → DWord
  | _, [], x => x
  | k, v :: vs, x => fillScr p dst (k + 1) vs (destScr p dst k (v &&& wordMask p.w) x)

/-- The words of client buffer `src` from word `k` on, `n` of them (20 R63). -/
def bufferWords (p : Params) (m : Memory) (src : Word) (k : Nat) : Nat → List DWord
  | 0 => []
  | n + 1 =>
    (Memory.readLE m (bufferWord p src k) p.w.bytes &&& wordMask p.w) ::
      bufferWords p m src (k + 1) n

/-- The words a trace stores to DATA, in the order of the trace. -/
def dataWrites (p : Params) : List Txn → List DWord
  | [] => []
  | .memWrite a n v :: rest =>
    if a = p.dataAddr ∧ n = p.w.bytes then v :: dataWrites p rest else dataWrites p rest
  | .memRead _ _ _ :: rest => dataWrites p rest
  | .now _ :: rest => dataWrites p rest
  | .sleep _ :: rest => dataWrites p rest

/-- Where a pump goes when its inner loop ends (42 R177, R178): step 6 on an exit flag of the snapshot, else
the deadline. -/
def pumpExitPhase (l : Layout) (snap : Word) : Phase :=
  if pumpExitFlags l snap then .ackRead else .pumpTime

/-! ## Tables of the spec -/

/-- The exchange of a command row with no data phase: the command, its CMD value as 30 R116 prints it (default
layout), and its argument (30 R107). -/
def plainExchange (s : State) : Instr → Option (CardCmd × Word × Word)
  | .goIdleState => some (.goIdleState, 0x80008000, 0)
  | .allSendCid => some (.allSendCid, 0x800000C2, 0)
  | .sendRelativeAddr => some (.sendRelativeAddr, 0x80000143, 0)
  | .selectCard => some (.selectCard, 0x80000147, s.ses.rca ++ (0 : BitVec 16))
  | .sendIfCond => some (.sendIfCond, 0x80000148, 0x1AA)
  | .sendCsd => some (.sendCsd, 0x80000049, s.ses.rca ++ (0 : BitVec 16))
  | .sdSendOpCond => some (.sdSendOpCond, 0x80000069, s.cfg.ocrArg)
  | .appCmd arg => some (.appCmd, 0x80000177, arg)
  | .readSingleBlock _ _ | .writeSingleBlock _ _ | .sendScr | .commitClk | .init
  | .readBlock _ _ | .writeBlock _ _ => none

end Sys2Proof.Machine

namespace Sys2Proof

/-- The parameters 30 R116 prints its CMD values for: default layout, no extra bits. -/
def Params.printed (p : Params) : Prop :=
  p.layout = Layout.default ∧ p.cmdExtraBits = 0

end Sys2Proof

namespace Sys2Proof.Machine

/-- An idle block that a step can give a request to: no reset, allowed parameters, no fault. -/
def State.inService (s : State) : Prop :=
  s.resetLine = false ∧ s.cfg.wf = true ∧ s.fault = none

/-- An operation in progress that the next step advances. -/
def State.running (s : State) : Prop :=
  s.inService ∧ s.port = none ∧ s.ph.phase ≠ .idle

/-- The MMIO transactions R119 writes `R <REG> -> v` and `W <REG> <- v`. -/
def rdTxn (p : Params) (X : Reg) (v : Word) : Txn := .memRead (p.addr X) 4 (v.setWidth 64)

/-- See `rdTxn`. -/
def wrTxn (p : Params) (X : Reg) (v : Word) : Txn := .memWrite (p.addr X) 4 (v.setWidth 64)

/-- A transaction the block may make (40 R131): a read of any register or of DATA, a write of one of nine
registers or of DATA, the time port, the delay port. -/
def allowedTxn (p : Params) : Txn → Prop
  | .memRead a n _ => (n = 4 ∧ ∃ X, X ∈ [Reg.ctrl, .cmd, .status, .rintsts, .resp0, .resp1,
      .resp2, .resp3] ∧ a = p.addr X) ∨ (n = p.w.bytes ∧ a = p.dataAddr)
  | .memWrite a n _ => (n = 4 ∧ ∃ X, X ∈ [Reg.ctrl, .clkdiv, .clkena, .ctype, .blksiz, .bytcnt,
      .cmdarg, .cmd, .rintsts] ∧ a = p.addr X) ∨ (n = p.w.bytes ∧ a = p.dataAddr)
  | .now _ => True
  | .sleep _ => True

end Sys2Proof.Machine
end

