-- ==== Sys2Proof/Certificates/Slice0/Obligations.lean ====
section
/-! DEFINITION. The statements for the provers, one definition each; OBLIGATIONS.json lists them. -/

open Sys2Proof Sys2Proof.Machine

/-- Decoding an encoded well-formed instruction gives it back, with every operand (30_encoding.md R114 to
R116); and a word that decodes at all decodes to a well-formed instruction whose own encoding has the same format
and the same decoded bits. -/
def Obligations.DecodeEncodeAgree : Prop :=
  (∀ i : Instr, i.wf = true → decode (encode i) = .ok i) ∧
  (∀ (o : OpWords) (i : Instr), decode o = .ok i →
    i.wf = true ∧ (encode i).format = o.format ∧
    (o.format = .cmdreg → (encode i).w0 &&& 0x803F87FF = o.w0 &&& 0x803F87FF) ∧
    (∀ index buf, i = .readBlock index buf ∨ i = .writeBlock index buf →
      index = o.w1 ∧ buf.handle = o.w2 ∧ buf.len = o.w3) ∧
    (∀ index buf, i = .readSingleBlock index buf ∨ i = .writeSingleBlock index buf →
      index = o.w1 ∧ buf = o.w2) ∧
    (∀ arg, i = .appCmd arg → arg = o.w1) ∧
    (o.format = .clientop → (encode i).w0 = o.w0 &&& 3))

/-- Ten words written out from 30 R116 and R114: eight decode to their rows, two to none. That a bare table word has
operands 0 and that a word of fewer than 32 bits is a client operation is the model's choice
(notes/assumptions/10.md). -/
def Obligations.TableWordsDecode : Prop :=
  decodeTableWord 32 0x80008000 = some .goIdleState ∧
  decodeTableWord 32 0x800000C2 = some .allSendCid ∧
  decodeTableWord 32 0x80000049 = some .sendCsd ∧
  decodeTableWord 32 0x80000758 = some (.writeSingleBlock 0 0) ∧
  decodeTableWord 32 0x80202000 = some .commitClk ∧
  decodeTableWord 32 0x80000152 = none ∧
  decodeTableWord 8 0 = some .init ∧
  decodeTableWord 8 1 = some (.readBlock 0 ⟨0, 0⟩) ∧
  decodeTableWord 8 2 = some (.writeBlock 0 ⟨0, 0⟩) ∧
  decodeTableWord 8 3 = none

/-- 30 R116: the twelve CMD values, and "a value is a supported command exactly when its masked value
equals one row's" (a sentence the spec marks as derived from its table). Using that decoder under every parameter
set, and taking any operand word beside a row, is the model's choice (notes/assumptions/17.md, 30.md). -/
def Obligations.CommandValuesAndDecoder : Prop :=
  (∀ p : Params, p.printed →
    cardValue p .goIdleState = 0x80008000 ∧ cardValue p .allSendCid = 0x800000C2 ∧
    cardValue p .sendRelativeAddr = 0x80000143 ∧ cardValue p .selectCard = 0x80000147 ∧
    cardValue p .sendIfCond = 0x80000148 ∧ cardValue p .sendCsd = 0x80000049 ∧
    cardValue p .readSingleBlock = 0x80000351 ∧ cardValue p .writeSingleBlock = 0x80000758 ∧
    cardValue p .sdSendOpCond = 0x80000069 ∧ cardValue p .sendScr = 0x80000373 ∧
    cardValue p .appCmd = 0x80000177) ∧
  commitValue Params.default = 0x80202000 ∧
  (∀ (p : Params) (c : CardCmd),
    cardValue p c = encCmd p.layout c.fields ||| p.cmdExtraBits ∧ c.fields.start = 1 ∧
    c.fields.cardIndex = 0 ∧ c.fields.index = c.opcode) ∧
  (∀ w0 w1 w2 w3 : Word,
    ((∃ i, decode ⟨.cmdreg, w0, w1, w2, w3⟩ = .ok i) ↔
      w0 &&& 0x803F87FF ∈ ([0x80008000, 0x800000C2, 0x80000143, 0x80000147, 0x80000148,
        0x80000049, 0x80000351, 0x80000758, 0x80000069, 0x80000373, 0x80000177,
        0x80200000] : List Word)))

/-- 30 R91, for every layout R92 allows and each of the fourteen registers with named fields: decode gives
back what was encoded, encode after decode keeps exactly the named bits, and so is the identity exactly
when the reserved bits are zero (the last clause, for any mask). -/
def Obligations.TypedViewsRoundTrip : Prop :=
  (∀ l : Layout, l.wf = true →
    (∀ f, decCtrl l (encCtrl l f) = f) ∧
    (∀ x, encCtrl l (decCtrl l x) = x &&& rangesMask l.rangesCtrl) ∧
    (∀ f, decPwren l (encPwren l f) = f) ∧
    (∀ x, encPwren l (decPwren l x) = x &&& rangesMask l.rangesPwren) ∧
    (∀ f, decClkdiv l (encClkdiv l f) = f) ∧
    (∀ x, encClkdiv l (decClkdiv l x) = x &&& rangesMask l.rangesClkdiv) ∧
    (∀ f, decClkena l (encClkena l f) = f) ∧
    (∀ x, encClkena l (decClkena l x) = x &&& rangesMask l.rangesClkena) ∧
    (∀ f, decCtype l (encCtype l f) = f) ∧
    (∀ x, encCtype l (decCtype l x) = x &&& rangesMask l.rangesCtype) ∧
    (∀ f, decBlksiz l (encBlksiz l f) = f) ∧
    (∀ x, encBlksiz l (decBlksiz l x) = x &&& rangesMask l.rangesBlksiz) ∧
    (∀ f, decBytcnt l (encBytcnt l f) = f) ∧
    (∀ x, encBytcnt l (decBytcnt l x) = x &&& rangesMask l.rangesBytcnt) ∧
    (∀ f, decCmd l (encCmd l f) = f) ∧
    (∀ x, encCmd l (decCmd l x) = x &&& rangesMask l.rangesCmd) ∧
    (∀ f, decRintsts l (encRintsts l f) = f) ∧
    (∀ x, encRintsts l (decRintsts l x) = x &&& rangesMask l.rangesRintsts) ∧
    (∀ f, decStatus l (encStatus l f) = f) ∧
    (∀ x, encStatus l (decStatus l x) = x &&& rangesMask l.rangesStatus) ∧
    (∀ f, decCdetect l (encCdetect l f) = f) ∧
    (∀ x, encCdetect l (decCdetect l x) = x &&& rangesMask l.rangesCdetect) ∧
    (∀ f, decBmod l (encBmod l f) = f) ∧
    (∀ x, encBmod l (decBmod l x) = x &&& rangesMask l.rangesBmod) ∧
    (∀ f, decDbaddrl l (encDbaddrl l f) = f) ∧
    (∀ x, encDbaddrl l (decDbaddrl l x) = x &&& rangesMask l.rangesDbaddrl) ∧
    (∀ f, decDbaddru l (encDbaddru l f) = f) ∧
    (∀ x, encDbaddru l (decDbaddru l x) = x &&& rangesMask l.rangesDbaddru) ∧
    (∀ x, encValue (decValue x) = x)) ∧
  (∀ x m : Word, x &&& m = x ↔ x &&& ~~~m = 0)

/-- 41 R163, R165, R166, under every allowed parameter set, with the choice of the engine's steps by the value read
back (42 R175, R176). R166 says the pulse clause of the default layout; that it holds of every other set is R163's
condition on COMMIT_CLK_VALUE, whose failure is refused (notes/assumptions/33.md). -/
def Obligations.EncodedCommandsReadBack : Prop :=
  (∀ (p : Params) (c : CardCmd), p.wf = true → decCmd p.layout (cardValue p c) = c.fields) ∧
  (∀ p : Params, p.wf = true →
    (decCmd p.layout (commitValue p)).responseExpect = 0 ∧
    (decCmd p.layout (commitValue p)).dataExpected = 0) ∧
  (∀ s : State, s.running → s.ph.phase = .wait .accepted .poll →
    (decCmd s.cfg.layout (readVal .cmd s)).start = 0 →
    ∃ t, step s = .next t ∧ t.ph.phase =
      if (decCmd s.cfg.layout s.wrk.cmdval).responseExpect = 1 then .wait .done .start
      else if (decCmd s.cfg.layout s.wrk.cmdval).dataExpected = 1 then .pumpStart else .ackRead) ∧
  (∀ s : State, s.running → s.ph.phase = .wait .done .poll →
    (decRintsts s.cfg.layout (readVal .rintsts s)).commandDone = 1 →
    ∃ t, step s = .next t ∧ t.ph.phase =
      if (decCmd s.cfg.layout s.wrk.cmdval).dataExpected = 1 then .pumpStart else .ackRead)

/-- 41 R151 to R162: which of the six policy fields of each command are set. -/
def Obligations.CommandPolicies : Prop :=
  (∀ c : CardCmd, c.fields.sendInit = 1 ↔ c = .goIdleState) ∧
  (∀ c : CardCmd, c.fields.responseExpect = 0 ↔ c = .goIdleState) ∧
  (∀ c : CardCmd, c.fields.responseLength = 1 ↔ c = .allSendCid) ∧
  (∀ c : CardCmd, c.fields.checkCrc = 0 ↔
    c = .goIdleState ∨ c = .allSendCid ∨ c = .sendCsd ∨ c = .sdSendOpCond) ∧
  (∀ c : CardCmd, c.fields.dataExpected = 1 ↔
    c = .readSingleBlock ∨ c = .writeSingleBlock ∨ c = .sendScr) ∧
  (∀ c : CardCmd, c.fields.direction = 1 ↔ c = .writeSingleBlock)

/-- 41 R164: the encoder on every opcode of 0 to 56, and what presenting such a command does. That a CMD value presented
to the block stands for its opcode is the model's reading (notes/assumptions/17.md), and so is the fault recorded
with `busy` 1 for an operation that is no client operation (notes/assumptions/18.md). -/
def Obligations.UnsupportedOpcodesFault : Prop :=
  (∀ (p : Params) (n : Fin 57),
    encodeCmd p (.card n) = .error (.unimplementedOperation n.val) ↔
      n.val ∉ [0, 2, 3, 7, 8, 9, 17, 24, 41, 51, 55]) ∧
  (∀ (p : Params) (n : Fin 57), n.val ∈ [0, 2, 3, 7, 8, 9, 17, 24, 41, 51, 55] →
    ∃ v, encodeCmd p (.card n) = .ok v) ∧
  (∀ (w0 w1 w2 w3 : Word) (n : Fin 57), w0 &&& 0x80200000 = 0x80000000 →
    (w0.extractLsb' 0 6).toNat = n.val → n.val ∉ [0, 2, 3, 7, 8, 9, 17, 24, 41, 51, 55] →
    decode ⟨.cmdreg, w0, w1, w2, w3⟩ = .error (.unsupported n)) ∧
  (∀ (s : State) (o : OpWords) (n : Fin 57), s.inService → s.isIdle = true → s.port = some o →
    decode o = .error (.unsupported n) →
    step s = .next { s with port := none, fault := some (.unimplementedOperation n.val),
                            ph := { s.ph with busy := true } })

/-- 43 R200 under every allowed layout. -/
def Obligations.HasErrorIsSevenFlags : Prop :=
  ∀ (l : Layout) (v : Word), l.wf = true →
    (hasError l v = true ↔
      (decRintsts l v).responseTimeout = 1 ∨ (decRintsts l v).responseCrcError = 1 ∨
      (decRintsts l v).responseError = 1 ∨ (decRintsts l v).dataCrcError = 1 ∨
      (decRintsts l v).dataTimeout = 1 ∨ (decRintsts l v).startBitError = 1 ∨
      (decRintsts l v).endBitError = 1) ∧
    (hasError l v = true ↔ v &&& errMask l ≠ 0)

/-- 43 R204 and R205: a CID put together from its parts, most significant first, decodes to those parts, from
either order of the response words. -/
def Obligations.CidFieldsWhereTheyStand : Prop :=
  (∀ (mid o1 o2 p1 p2 p3 p4 p5 : Byte) (maj min : BitVec 4) (ser : Word) (skip : BitVec 4)
      (yy : BitVec 8) (mm : BitVec 4) (crc : Byte),
    decodeCid (mid ++ o1 ++ o2 ++ p1 ++ p2 ++ p3 ++ p4 ++ p5 ++ maj ++ min ++ ser ++ skip ++ yy ++
        mm ++ crc) =
      { manufacturerId := mid, oemId := (o1, o2), productName := (p1, p2, p3, p4, p5)
        revMajor := maj, revMinor := min, serial := ser, year := yy.toNat + 2000, month := mm }) ∧
  (∀ (p : Params) (r0 r1 r2 r3 : Word), p.cidMsw = .resp3 →
    assembleCid p r0 r1 r2 r3 = r3 ++ r2 ++ r1 ++ r0) ∧
  (∀ (p : Params) (r0 r1 r2 r3 : Word), p.cidMsw = .resp0 →
    assembleCid p r0 r1 r2 r3 = r0 ++ r1 ++ r2 ++ r3)

/-- Every command row with no data phase, on an idle block: the exchange of its CMD value and argument begins
(30 R107, R116, 42 R170, R172), and nothing else changes. Under the default layout the value is the one R116
prints. APP_CMD sends whatever argument it is given; R107 lists two, the others are the model's choice
(notes/assumptions/30.md). -/
def Obligations.PlainCommandsStart : Prop :=
  ∀ (s : State) (i : Instr) (c : CardCmd) (v a : Word), s.isIdle = true →
    plainExchange s i = some (c, v, a) →
    exec i s = .next { s with
      ph := { s.ph with xstep := 1, phase := .wait .ready .start, ctx := .bare }
      wrk := { s.wrk with cmdval := cardValue s.cfg c, arg := a, td := .none }
      result := none } ∧
    (s.cfg.printed → cardValue s.cfg c = v)

/-- The three command rows with a data phase, presented by themselves to an idle block: PROGRAM_TXN is next (00 R11, 70
R321), a block row with a buffer that is not 512 bytes long is a contract violation (00 R11, 45 R254). That a row by
itself does both is the model's choice (notes/assumptions/35.md); BlockCommandsProgrammed goes on from here. -/
def Obligations.DataCommandsStart : Prop :=
  (∀ (s : State) (index buf : Word), s.isIdle = true → s.bufferLength buf = 512 →
    exec (.readSingleBlock index buf) s = .next { s with
      ph := { s.ph with phase := .blockSize, ctx := .readRow }
      wrk := { s.wrk with index := index, buf := buf }
      result := none } ∧
    exec (.writeSingleBlock index buf) s = .next { s with
      ph := { s.ph with phase := .blockSize, ctx := .writeRow }
      wrk := { s.wrk with index := index, buf := buf }
      result := none }) ∧
  (∀ (s : State) (index buf : Word), s.isIdle = true → s.bufferLength buf ≠ 512 →
    exec (.readSingleBlock index buf) s = .next { s with
      fault := some (.contractViolation .bufferLength), ph := { s.ph with busy := true } } ∧
    exec (.writeSingleBlock index buf) s = .next { s with
      fault := some (.contractViolation .bufferLength), ph := { s.ph with busy := true } }) ∧
  (∀ s : State, s.isIdle = true → exec .sendScr s = .next { s with
    ph := { s.ph with phase := .blockSize, ctx := .scrRow }, result := none })

/-- The whole exchange of a command that expects a response (42 R183), against a controller that is ready at
once, accepts at once and has answered at the first poll: eleven MMIO transactions, in order. `v` is the
value step 6 read. -/
def Obligations.PlainExchangeRuns : Prop :=
  ∀ (s : State) (i : Instr) (c : CardCmd) (cv a : Word) (m0 m1 m2 m3 m4 m5 m6 m7 m8 m9 m10 m11 m12 m13 : EnvMove)
      (rest : List EnvMove),
    s.inService → s.port = none → s.isIdle = true →
    plainExchange s i = some (c, cv, a) → i ≠ .goIdleState →
    s.env.script = m0 :: m1 :: m2 :: m3 :: m4 :: m5 :: m6 :: m7 :: m8 :: m9 :: m10 :: m11 :: m12 ::
      m13 :: rest →
    cmdStart s.cfg.layout m1.cmd = false → cmdStart s.cfg.layout m5.cmd = false →
    flagCommandDone s.cfg.layout m7.rint = true →
    ∃ t u c0 c1 d v n0 n1 n2, exec i s = .next t ∧ Host.Core.run core 15 t = .next u ∧
      u.result = some (.xchg (if hasError s.cfg.layout v then .failed (v.extractLsb' 0 16)
        else .ok m10.resp0 m11.resp1 m12.resp2 m13.resp3)) ∧
      u.trace = rdTxn s.cfg .resp3 m13.resp3 :: rdTxn s.cfg .resp2 m12.resp2 ::
        rdTxn s.cfg .resp1 m11.resp1 :: rdTxn s.cfg .resp0 m10.resp0 ::
        wrTxn s.cfg .rintsts v :: rdTxn s.cfg .rintsts v :: rdTxn s.cfg .rintsts d :: .now n2 ::
        rdTxn s.cfg .cmd c1 :: .now n1 :: wrTxn s.cfg .cmd (cardValue s.cfg c) ::
        wrTxn s.cfg .cmdarg a :: rdTxn s.cfg .cmd c0 :: .now n0 :: s.trace ∧
      u.isIdle = true ∧ u.ph.xstep = 0 ∧ u.ses = s.ses ∧ u.mem = s.mem ∧
      u.completion = s.completion ∧ u.fault = none

/-- The whole exchange of GO_IDLE_STATE (42 R183, R185 a): ten MMIO transactions, no poll of RINTSTS. -/
def Obligations.GoIdleExchangeRuns : Prop :=
  ∀ (s : State) (m0 m1 m2 m3 m4 m5 m6 m7 m8 m9 m10 m11 : EnvMove) (rest : List EnvMove),
    s.inService → s.port = none → s.isIdle = true →
    s.env.script = m0 :: m1 :: m2 :: m3 :: m4 :: m5 :: m6 :: m7 :: m8 :: m9 :: m10 :: m11 :: rest →
    cmdStart s.cfg.layout m1.cmd = false → cmdStart s.cfg.layout m5.cmd = false →
    ∃ t u c0 c1 v n0 n1, exec .goIdleState s = .next t ∧ Host.Core.run core 13 t = .next u ∧
      u.result = some (.xchg (if hasError s.cfg.layout v then .failed (v.extractLsb' 0 16)
        else .ok m8.resp0 m9.resp1 m10.resp2 m11.resp3)) ∧
      u.trace = rdTxn s.cfg .resp3 m11.resp3 :: rdTxn s.cfg .resp2 m10.resp2 ::
        rdTxn s.cfg .resp1 m9.resp1 :: rdTxn s.cfg .resp0 m8.resp0 ::
        wrTxn s.cfg .rintsts v :: rdTxn s.cfg .rintsts v ::
        rdTxn s.cfg .cmd c1 :: .now n1 ::
        wrTxn s.cfg .cmd (cardValue s.cfg .goIdleState) :: wrTxn s.cfg .cmdarg 0 ::
        rdTxn s.cfg .cmd c0 :: .now n0 :: s.trace ∧
      u.isIdle = true ∧ u.ph.xstep = 0 ∧ u.ses = s.ses ∧ u.mem = s.mem ∧
      u.completion = s.completion ∧ u.fault = none

/-- COMMIT_CLK (42 R184) against a controller that accepts it: two MMIO transactions, and CLKDIV and CLKENA come
into force (20 R69). That the pulse replaces a value still in flight is the model's choice (notes/assumptions/34.md). -/
def Obligations.CommitPulseRuns : Prop :=
  ∀ (s : State) (m0 m1 m2 : EnvMove) (rest : List EnvMove),
    s.inService → s.port = none → s.isIdle = true →
    s.env.script = m0 :: m1 :: m2 :: rest → cmdStart s.cfg.layout m2.cmd = false →
    ∃ t u c n, exec .commitClk s = .next t ∧ Host.Core.run core 3 t = .next u ∧
      u.result = some .done ∧
      u.trace = rdTxn s.cfg .cmd c :: .now n :: wrTxn s.cfg .cmd s.cfg.commitClkValue :: s.trace ∧
      u.env.cardDiv = s.regs.clkdiv ∧ u.env.cardEna = s.regs.clkena ∧ u.env.flight = none ∧
      u.regs.cmdarg = s.regs.cmdarg ∧ u.isIdle = true ∧ u.ses = s.ses ∧ u.mem = s.mem

/-- INIT on an idle block (45 R251): it begins at ClockReset, or is the contract violation of a second INIT. -/
def Obligations.InitAccepted : Prop :=
  ∀ s : State, s.isIdle = true →
    (s.ph.ps = .powerOn →
      exec .init s = .next { s with
        completion := none
        ph := { s.ph with ps := .clockReset, busy := true, phase := .clockOff, ctx := .pulseOff } }) ∧
    (s.ph.ps ≠ .powerOn →
      exec .init s = .next { s with
        completion := none, fault := some (.contractViolation .secondInit)
        ph := { s.ph with busy := true } })

/-- READ_BLOCK on an idle block (45 R252, R254, R255; the order of R280): the check of the length in the request,
the usable gate, then PROGRAM_TXN. At the gate the buffer's 512 bytes are their old values or any values (93 U2). -/
def Obligations.ReadBlockAccepted : Prop :=
  ∀ (s : State) (index : Word) (buf : ClientBuffer), s.isIdle = true →
    (buf.len.toNat ≠ 512 →
      exec (.readBlock index buf) s = .next { s with
        completion := none, fault := some (.contractViolation .bufferLength)
        ph := { s.ph with busy := true } }) ∧
    (buf.len.toNat = 512 → s.ses.usable = false →
      ∃ t, exec (.readBlock index buf) s = .next t ∧ t.completion = some (.err .initError) ∧
        t.regs = s.regs ∧ t.trace = s.trace ∧ t.ses = s.ses ∧ t.wrk = s.wrk ∧ t.fault = s.fault ∧
        t.isIdle = true ∧ t.ph.ps = s.ph.ps ∧
        ∀ a, ¬ inBuffer buf.handle a → t.mem.read a = s.mem.read a) ∧
    (buf.len.toNat = 512 → s.ses.usable = true →
      exec (.readBlock index buf) s = .next { s with
        completion := none
        wrk := { s.wrk with index := index, buf := buf.handle }
        ph := { s.ph with busy := true, phase := .blockSize, ctx := .readBlock } })

/-- WRITE_BLOCK on an idle block (45 R253, R254, R255). -/
def Obligations.WriteBlockAccepted : Prop :=
  ∀ (s : State) (index : Word) (buf : ClientBuffer), s.isIdle = true →
    (buf.len.toNat ≠ 512 →
      exec (.writeBlock index buf) s = .next { s with
        completion := none, fault := some (.contractViolation .bufferLength)
        ph := { s.ph with busy := true } }) ∧
    (buf.len.toNat = 512 → s.ses.usable = false →
      exec (.writeBlock index buf) s = .next { s with
        completion := some (.err .initError)
        ph := { s.ph with busy := false, xstep := 0, phase := .idle, ctx := .bare } }) ∧
    (buf.len.toNat = 512 → s.ses.usable = true →
      exec (.writeBlock index buf) s = .next { s with
        completion := none
        wrk := { s.wrk with index := index, buf := buf.handle }
        ph := { s.ph with busy := true, phase := .blockSize, ctx := .writeBlock } })

/-- From the start of PROGRAM_TXN (45 R258, R252, R253, R257, 44 R233): BLKSIZ then BYTCNT are written, with 512 for a
block and 8 for the SCR, and the exchange begins: of the block command with the raw index as argument and the
client's buffer, or of SEND_SCR with argument 0 and the block's own buffer. The three contexts of rows by
themselves are the model's (notes/assumptions/35.md); a block's descriptor is 512 / W words because a buffer of
another length has been turned away. -/
def Obligations.BlockCommandsProgrammed : Prop :=
  ∀ s : State, s.running → s.ph.phase = .blockSize → s.ph.ctx.forData = true →
    ∃ t, Host.Core.run core 2 s = .next t ∧
      (s.ph.ctx = .scr ∨ s.ph.ctx = .scrRow →
        t.regs.blksiz = encBlksiz s.cfg.layout { blockSize := 8 } ∧
        t.regs.bytcnt = encBytcnt s.cfg.layout { byteCount := 8 }) ∧
      (s.ph.ctx ≠ .scr ∧ s.ph.ctx ≠ .scrRow →
        t.regs.blksiz = encBlksiz s.cfg.layout { blockSize := 512 } ∧
        t.regs.bytcnt = encBytcnt s.cfg.layout { byteCount := 512 }) ∧
      t.trace = wrTxn s.cfg .bytcnt t.regs.bytcnt :: wrTxn s.cfg .blksiz t.regs.blksiz ::
        s.trace ∧
      t.ph.phase = .wait .ready .start ∧ t.ph.xstep = 1 ∧ t.ph.ctx = s.ph.ctx ∧
      (s.ph.ctx = .readBlock ∨ s.ph.ctx = .readRow →
        t.wrk.cmdval = cardValue s.cfg .readSingleBlock ∧ t.wrk.arg = s.wrk.index ∧
        t.wrk.td = .read (.client s.wrk.buf) (512 / s.cfg.w.bytes)) ∧
      (s.ph.ctx = .writeBlock ∨ s.ph.ctx = .writeRow →
        t.wrk.cmdval = cardValue s.cfg .writeSingleBlock ∧ t.wrk.arg = s.wrk.index ∧
        t.wrk.td = .write s.wrk.buf (512 / s.cfg.w.bytes)) ∧
      (s.ph.ctx = .scr ∨ s.ph.ctx = .scrRow →
        t.wrk.cmdval = cardValue s.cfg .sendScr ∧ t.wrk.arg = 0 ∧
        t.wrk.td = .read .scr (8 / s.cfg.w.bytes)) ∧
      t.ses = s.ses ∧ t.mem = s.mem ∧ t.regs.cmdarg = s.regs.cmdarg ∧
      (s.cfg.printed →
        (s.ph.ctx = .scr ∨ s.ph.ctx = .scrRow →
          t.regs.blksiz = 8 ∧ t.regs.bytcnt = 8 ∧ t.wrk.cmdval = 0x80000373) ∧
        (s.ph.ctx = .readBlock ∨ s.ph.ctx = .readRow →
          t.regs.blksiz = 512 ∧ t.regs.bytcnt = 512 ∧ t.wrk.cmdval = 0x80000351) ∧
        (s.ph.ctx = .writeBlock ∨ s.ph.ctx = .writeRow →
          t.regs.blksiz = 512 ∧ t.regs.bytcnt = 512 ∧ t.wrk.cmdval = 0x80000758))

/-- What a block operation completes with when its exchange has returned (45 R252, R253, 60 R281): the block is
idle again, `usable` and the protocol state are kept, and no register is accessed. -/
def Obligations.BlockOutcomesMapped : Prop :=
  ∀ (s : State) (o : XOutcome), s.running → s.ph.phase = .returned → s.result = some (.xchg o) →
    (s.ph.ctx = .readBlock ∨ s.ph.ctx = .writeBlock) →
    ∃ t, step s = .next t ∧ t.isIdle = true ∧ t.ses = s.ses ∧ t.ph.ps = s.ph.ps ∧
      t.trace = s.trace ∧ t.regs = s.regs ∧ t.wrk = s.wrk ∧
      (∀ r0 r1 r2 r3, o = .ok r0 r1 r2 r3 → t.completion = some .ok ∧ t.mem = s.mem) ∧
      (∀ f, o = .failed f → s.ph.ctx = .readBlock → t.completion = some (.err .readError)) ∧
      (∀ f, o = .failed f → s.ph.ctx = .writeBlock →
        t.completion = some (.err .writeError) ∧ t.mem = s.mem) ∧
      (∀ k, o = .timedOut k → t.completion = some (.err .timeoutError)) ∧
      (∀ k, o = .timedOut k → s.ph.ctx = .writeBlock → t.mem = s.mem) ∧
      (∀ a, ¬ inBuffer s.wrk.buf a → t.mem.read a = s.mem.read a)

/-- The bounded wait (42 R171), one transaction at a time, for every condition: t0 is the clock read first, the
condition is one read of its register, it is tested before the deadline, and a condition that holds ends
the wait whatever the deadline. The conditions are `start = 0` (steps 1 and 3, the commit pulse; R172, R174, R184),
`data_busy = 0` (step 1 with a data phase; R172), `command_done = 1` (step 4; R175) and the reset bit reading 0 (40
R138). -/
def Obligations.WaitTestsConditionFirst : Prop :=
  (∀ (s : State) (w : WaitFor), s.running → s.ph.phase = .wait w .start →
    ∃ t n, step s = .next t ∧ t.wrk.t0 = n ∧ t.trace = .now n :: s.trace ∧
      t.ph.phase = .wait w .poll ∧ t.env.clock = n) ∧
  (∀ (s : State) (w : WaitFor), s.running → s.ph.phase = .wait w .poll →
    ∃ t X v, step s = .next t ∧ t.trace = rdTxn s.cfg X v :: s.trace ∧ t.wrk.t0 = s.wrk.t0 ∧
      (w = .ready ∨ w = .accepted ∨ w = .pulse → X = .cmd ∧
        ((decCmd s.cfg.layout v).start ≠ 0 ↔ t.ph.phase = .wait w .check)) ∧
      (w = .notBusy → X = .status ∧
        ((decStatus s.cfg.layout v).dataBusy ≠ 0 ↔ t.ph.phase = .wait w .check)) ∧
      (w = .done → X = .rintsts ∧
        ((decRintsts s.cfg.layout v).commandDone ≠ 1 ↔ t.ph.phase = .wait w .check)) ∧
      (w = .reset .fifo → X = .ctrl ∧
        ((decCtrl s.cfg.layout v).fifoReset ≠ 0 ↔ t.ph.phase = .wait w .check)) ∧
      (w = .reset .dma → X = .ctrl ∧
        ((decCtrl s.cfg.layout v).dmaReset ≠ 0 ↔ t.ph.phase = .wait w .check)) ∧
      (t.ph.phase = .wait w .check ∨ ∀ stage, t.ph.phase ≠ .wait w stage)) ∧
  (∀ (s : State) (w : WaitFor), s.running → s.ph.phase = .wait w .check →
    ∃ t n, step s = .next t ∧ t.trace = .now n :: s.trace ∧ t.wrk.t0 = s.wrk.t0 ∧
      (n - s.wrk.t0 < s.cfg.timeoutMs ↔ t.ph.phase = .wait w .poll))

/-- 42 R182 and R184: at the deadline test of a wait of step 1, 3 or 4, or of a pump, with the deadline passed, the
exchange returns TimedOut at once; a pulse or reset request returns TimedOut. -/
def Obligations.ExpiredWaitTimesOut : Prop :=
  ∀ s : State, s.running → s.cfg.timeoutMs ≤ clockVal s - s.wrk.t0 →
    (∀ w, s.ph.phase = .wait w .check → ∃ t n, step s = .next t ∧ t.trace = .now n :: s.trace ∧
      t.ph.xstep = 0 ∧ t.wrk = s.wrk ∧ t.mem = s.mem ∧ t.fault = none ∧
      (t.ph.phase = .idle ∨ t.ph.phase = .returned) ∧
      (w = .ready ∨ w = .notBusy → t.result = some (.xchg (.timedOut 1))) ∧
      (w = .accepted → t.result = some (.xchg (.timedOut 3))) ∧
      (w = .done → t.result = some (.xchg (.timedOut 4))) ∧
      (w = .pulse ∨ (∃ f, w = .reset f) → t.result = some .timedOut)) ∧
    (s.ph.phase = .pumpTime → ∃ t n, step s = .next t ∧ t.trace = .now n :: s.trace ∧
      t.ph.xstep = 0 ∧ t.wrk = s.wrk ∧ t.mem = s.mem ∧ t.fault = none ∧
      (t.ph.phase = .idle ∨ t.ph.phase = .returned) ∧
      t.result = some (.xchg (.timedOut 5)))

/-- Step 2 (42 R173): exactly two writes, CMDARG then CMD, and the controller gets the argument written (20 R68). -/
def Obligations.SubmitWritesArgThenCmd : Prop :=
  ∀ s : State, s.running → s.ph.phase = .writeArg → cmdStart s.cfg.layout s.wrk.cmdval = true →
    ∃ t, Host.Core.run core 2 s = .next t ∧
      t.trace = wrTxn s.cfg .cmd s.wrk.cmdval :: wrTxn s.cfg .cmdarg s.wrk.arg :: s.trace ∧
      t.regs.cmdarg = s.wrk.arg ∧ t.regs.cmd = s.wrk.cmdval ∧
      t.env.flight = some { value := s.wrk.cmdval, arg := s.wrk.arg } ∧
      t.ph.xstep = 3 ∧ t.ph.phase = .wait .accepted .start ∧ t.wrk = s.wrk ∧ t.mem = s.mem ∧
      t.ses = s.ses ∧ t.regs.blksiz = s.regs.blksiz ∧ t.regs.bytcnt = s.regs.bytcnt

/-- Steps 6 to 8 (42 R179 to R181), from the start of step 6, whatever the environment does: six MMIO transactions
and the classification of the value read. -/
def Obligations.AcknowledgeRespondClassify : Prop :=
  ∀ s : State, s.running → s.ph.phase = .ackRead →
    ∃ t v r0 r1 r2 r3, Host.Core.run core 7 s = .next t ∧
      t.trace = rdTxn s.cfg .resp3 r3 :: rdTxn s.cfg .resp2 r2 :: rdTxn s.cfg .resp1 r1 ::
        rdTxn s.cfg .resp0 r0 :: wrTxn s.cfg .rintsts v :: rdTxn s.cfg .rintsts v :: s.trace ∧
      t.result = some (.xchg (if v &&& errMask s.cfg.layout ≠ 0 then .failed (v.extractLsb' 0 16)
        else .ok r0 r1 r2 r3)) ∧
      (∀ k, k < 16 → s.regs.rintsts.getLsbD k = true → v.getLsbD k = true) ∧
      t.ph.xstep = 0 ∧ t.ph.phase = (if s.ph.ctx.alone then .idle else .returned) ∧
      t.wrk = { s.wrk with snap := v, resp0 := r0, resp1 := r1, resp2 := r2, resp3 := r3 } ∧
      t.ses = s.ses ∧ t.mem = s.mem ∧ t.fault = none

/-- 70 R320: step 2 is entered only by a poll that read `start` as 0; for a data-bearing command by one that read
`data_busy` as 0, in a wait that was itself entered only by the poll of CMD that read `start` as 0: each phase of
that wait is entered only from the one before it. The write of CMD is entered only from the write of CMDARG that
step 2 begins with. -/
def Obligations.SubmitOnlyAfterStartClear : Prop :=
  (∀ s t : State, step s = .next t → t.ph.phase = .writeArg → s.ph.phase ≠ .writeArg →
    ∃ v, (s.ph.phase = .wait .ready .poll ∧ t.trace = rdTxn s.cfg .cmd v :: s.trace ∧
        cmdStart s.cfg.layout v = false ∧ cmdDataExpected s.cfg.layout s.wrk.cmdval = false) ∨
      (s.ph.phase = .wait .notBusy .poll ∧ t.trace = rdTxn s.cfg .status v :: s.trace ∧
        statusBusy s.cfg.layout v = false)) ∧
  (∀ s t : State, step s = .next t → t.ph.phase = .wait .notBusy .start →
    s.ph.phase = .wait .ready .poll ∧ t.wrk = s.wrk ∧ ∃ v, t.trace = rdTxn s.cfg .cmd v :: s.trace ∧
      cmdStart s.cfg.layout v = false ∧ cmdDataExpected s.cfg.layout s.wrk.cmdval = true) ∧
  (∀ s t : State, step s = .next t → t.ph.phase = .wait .notBusy .poll →
    s.ph.phase = .wait .notBusy .start ∨ s.ph.phase = .wait .notBusy .check) ∧
  (∀ s t : State, step s = .next t → t.ph.phase = .wait .notBusy .check →
    s.ph.phase = .wait .notBusy .poll) ∧
  (∀ s t : State, step s = .next t → t.ph.phase = .writeCmd →
    s.ph.phase = .writeArg ∧ t.wrk = s.wrk ∧
      t.trace = wrTxn s.cfg .cmdarg s.wrk.arg :: s.trace)

/-- 42 R172: where the polls of step 1 lead when their condition is met, for every exchange. A data-bearing command goes
on to the separate wait for `data_busy`, and step 2 follows it; any other goes to step 2 at once. -/
def Obligations.StepOneReachesSubmit : Prop :=
  (∀ s : State, s.running → s.ph.phase = .wait .ready .poll →
    (decCmd s.cfg.layout (readVal .cmd s)).start = 0 →
    ∃ t, step s = .next t ∧
      t.trace = rdTxn s.cfg .cmd (readVal .cmd s) :: s.trace ∧
      t.ph = (if (decCmd s.cfg.layout s.wrk.cmdval).dataExpected = 1
        then { s.ph with phase := .wait .notBusy .start }
        else { s.ph with xstep := 2, phase := .writeArg }) ∧
      t.wrk = s.wrk ∧ t.ses = s.ses ∧ t.mem = s.mem ∧ t.fault = none) ∧
  (∀ s : State, s.running → s.ph.phase = .wait .notBusy .poll →
    (decStatus s.cfg.layout (readVal .status s)).dataBusy = 0 →
    ∃ t, step s = .next t ∧
      t.trace = rdTxn s.cfg .status (readVal .status s) :: s.trace ∧
      t.ph = { s.ph with xstep := 2, phase := .writeArg } ∧
      t.wrk = s.wrk ∧ t.ses = s.ses ∧ t.mem = s.mem ∧ t.fault = none)

/-- The read pump's drain (42 R177, R185 d), `UNITS_PER_ACCESS = 2`, against a controller that leaves the FIFO
alone: all k words of the FIFO go to the buffer in order, and the drain ends with the exit test. Byte j of buffer word k
is byte `k * W + j` of the buffer (20 R63); that byte b of client buffer h is read at `512 * h + b` is the model's choice
(notes/assumptions/11.md). -/
def Obligations.ReadPumpDrains : Prop :=
  ∀ (s : State) (dst : Dest) (n : Nat) (ms rest : List EnvMove),
    s.running → s.ph.phase = .pumpCount → s.wrk.td = .read dst n → s.cfg.units = .two →
    s.env.script = ms ++ rest → ms.length = 2 * s.env.fifo.length + 1 →
    (∀ m ∈ ms, fifoQuiet m) → ResetBit.reads s.cfg.layout s.regs.ctrl .fifo = false →
    s.wrk.cursor + s.env.fifo.length ≤ n → 2 * s.env.fifo.length < 8192 →
    ∃ t, Host.Core.run core (2 * s.env.fifo.length + 1) s = .next t ∧
      t.wrk.cursor = s.wrk.cursor + s.env.fifo.length ∧ t.env.fifo = [] ∧
      t.mem = fillMemory s.cfg dst s.wrk.cursor s.env.fifo s.mem ∧
      t.wrk.scr = fillScr s.cfg dst s.wrk.cursor s.env.fifo s.wrk.scr ∧
      (∀ h, dst = .client h → s.mem.wf = true →
        (∀ i v, s.env.fifo[i]? = some v → ∀ j, j < s.cfg.w.bytes →
          t.mem.read (512 * h.toNat + (s.wrk.cursor + i) * s.cfg.w.bytes + j) =
            v.extractLsb' (8 * j) 8) ∧
        (∀ a, a < 512 * h.toNat + s.wrk.cursor * s.cfg.w.bytes ∨
            512 * h.toNat + (s.wrk.cursor + s.env.fifo.length) * s.cfg.w.bytes ≤ a →
          t.mem.read a = s.mem.read a)) ∧
      (dst = .scr → t.mem = s.mem ∧
        ∀ i v, s.env.fifo[i]? = some v → ∀ j, j < s.cfg.w.bytes →
          (s.wrk.cursor + i) * s.cfg.w.bytes + j < 8 →
          t.wrk.scr.extractLsb' (8 * ((s.wrk.cursor + i) * s.cfg.w.bytes + j)) 8 =
            v.extractLsb' (8 * j) 8) ∧
      t.ph.phase = pumpExitPhase s.cfg.layout s.wrk.snap ∧ t.ses = s.ses ∧ t.fault = none

/-- 70 R324 a: with `UNITS_PER_ACCESS = 1` the same drain leaves the last word in the FIFO. -/
def Obligations.ResidualWordStays : Prop :=
  ∀ (s : State) (dst : Dest) (n : Nat) (vs : List DWord) (last : DWord) (ms rest : List EnvMove),
    s.running → s.ph.phase = .pumpCount → s.wrk.td = .read dst n → s.cfg.units = .one →
    s.env.fifo = vs ++ [last] →
    s.env.script = ms ++ rest → ms.length = 2 * vs.length + 1 →
    (∀ m ∈ ms, fifoQuiet m) → ResetBit.reads s.cfg.layout s.regs.ctrl .fifo = false →
    s.wrk.cursor + vs.length ≤ n → vs.length + 1 < 8192 →
    ∃ t, Host.Core.run core (2 * vs.length + 1) s = .next t ∧
      t.wrk.cursor = s.wrk.cursor + vs.length ∧ t.env.fifo = [last] ∧
      t.mem = fillMemory s.cfg dst s.wrk.cursor vs s.mem ∧
      t.ph.phase = pumpExitPhase s.cfg.layout s.wrk.snap ∧ t.fault = none

/-- The write pump's fill (42 R178), against a controller that takes each word at once: the rest of the source goes
to DATA in order, and no STATUS read is made once the source is exhausted. Byte j of the i-th word sent is byte
`(cursor + i) * W + j` of the buffer (20 R63), read at `512 * src` plus that (the model's choice,
notes/assumptions/11.md). -/
def Obligations.WritePumpFills : Prop :=
  ∀ (s : State) (src : Word) (n : Nat) (ms rest : List EnvMove),
    s.running → s.ph.phase = .pumpCount → s.wrk.td = .write src n → s.wrk.cursor < n →
    s.env.fifo = [] → s.env.script = ms ++ rest → ms.length = 2 * (n - s.wrk.cursor) →
    (∀ m ∈ ms, fifoTakes m) →
    ∃ t, Host.Core.run core (2 * (n - s.wrk.cursor)) s = .next t ∧
      t.wrk.cursor = n ∧ t.mem = s.mem ∧
      dataWrites s.cfg t.trace =
        (bufferWords s.cfg s.mem src s.wrk.cursor (n - s.wrk.cursor)).reverse ++
          dataWrites s.cfg s.trace ∧
      (∀ i, i < n - s.wrk.cursor → ∃ v,
        (dataWrites s.cfg t.trace)[n - s.wrk.cursor - 1 - i]? = some v ∧
        v.toNat < 256 ^ s.cfg.w.bytes ∧
        ∀ j, j < s.cfg.w.bytes → v.extractLsb' (8 * j) 8 =
          s.mem.read (512 * src.toNat + (s.wrk.cursor + i) * s.cfg.w.bytes + j)) ∧
      t.trace.length = s.trace.length + 2 * (n - s.wrk.cursor) ∧
      t.ph.phase = pumpExitPhase s.cfg.layout s.wrk.snap ∧ t.ses = s.ses ∧ t.fault = none

/-- 42 R177, R178: the first step of a pump, whatever the environment does, and its loop back to the snapshot when the
deadline has not passed. A descriptor that does not match the command's data flags is refused (30 R113, 93 U17; where
it is refused is the model's choice, notes/assumptions/26.md). -/
def Obligations.PumpBeginsAndLoops : Prop :=
  (∀ s : State, s.running → s.ph.phase = .pumpStart →
    (decCmd s.cfg.layout s.wrk.cmdval).dataExpected = 1 →
    ((∃ dst n, s.wrk.td = .read dst n) ∧ (decCmd s.cfg.layout s.wrk.cmdval).direction = 0 ∨
      (∃ src n, s.wrk.td = .write src n) ∧ (decCmd s.cfg.layout s.wrk.cmdval).direction = 1) →
    ∃ t n, step s = .next t ∧ t.trace = .now n :: s.trace ∧ t.env.clock = n ∧
      t.wrk = { s.wrk with t0 := n, cursor := 0 } ∧ t.ph = { s.ph with phase := .pumpSnap } ∧
      t.ses = s.ses ∧ t.mem = s.mem ∧ t.fault = none) ∧
  (∀ s : State, s.running → s.ph.phase = .pumpStart →
    ((decCmd s.cfg.layout s.wrk.cmdval).dataExpected = 1 ∧ s.wrk.td = .none ∨
      (∃ dst n, s.wrk.td = .read dst n) ∧
        ((decCmd s.cfg.layout s.wrk.cmdval).dataExpected = 0 ∨
          (decCmd s.cfg.layout s.wrk.cmdval).direction = 1) ∨
      (∃ src n, s.wrk.td = .write src n) ∧
        ((decCmd s.cfg.layout s.wrk.cmdval).dataExpected = 0 ∨
          (decCmd s.cfg.layout s.wrk.cmdval).direction = 0)) →
    step s = .refused .descriptorMismatch) ∧
  (∀ s : State, s.running → s.ph.phase = .pumpTime →
    clockVal s - s.wrk.t0 < s.cfg.timeoutMs →
    ∃ t, step s = .next t ∧ t.trace = .now (clockVal s) :: s.trace ∧ t.wrk = s.wrk ∧
      t.ph = { s.ph with phase := .pumpSnap } ∧ t.ses = s.ses ∧ t.mem = s.mem ∧ t.fault = none)

/-- 42 R177, R178, 20 R63: one word of a pump, whatever the environment does: one DATA access, the word's bytes, and the
cursor one higher. Byte b of client buffer h is read at `512 * h + b` (the model's choice, notes/assumptions/11.md). -/
def Obligations.PumpMovesOneWord : Prop :=
  (∀ (s : State) (dst : Dest) (n : Nat), s.running → s.ph.phase = .pumpMove →
    s.wrk.td = .read dst n →
    ∃ t v, step s = .next t ∧ t.trace = .memRead s.cfg.dataAddr s.cfg.w.bytes v :: s.trace ∧
      (∀ x xs, (envStep s).env.fifo = x :: xs →
        v = x &&& wordMask s.cfg.w ∧ t.env.fifo = xs) ∧
      t.wrk.cursor = s.wrk.cursor + 1 ∧ t.wrk.snap = s.wrk.snap ∧ t.wrk.td = s.wrk.td ∧
      t.ph = { s.ph with phase := .pumpCount } ∧ t.ses = s.ses ∧ t.fault = none ∧
      (dst = .scr → t.mem = s.mem) ∧
      (∀ h, dst = .client h → t.wrk.scr = s.wrk.scr ∧
        (s.mem.wf = true → ∀ j, j < s.cfg.w.bytes →
          t.mem.read (512 * h.toNat + s.wrk.cursor * s.cfg.w.bytes + j) =
            v.extractLsb' (8 * j) 8) ∧
        (∀ a, a < 512 * h.toNat + s.wrk.cursor * s.cfg.w.bytes ∨
            512 * h.toNat + (s.wrk.cursor + 1) * s.cfg.w.bytes ≤ a →
          t.mem.read a = s.mem.read a))) ∧
  (∀ (s : State) (src : Word) (n : Nat), s.running → s.ph.phase = .pumpMove →
    s.wrk.td = .write src n →
    ∃ t v, step s = .next t ∧ t.trace = .memWrite s.cfg.dataAddr s.cfg.w.bytes v :: s.trace ∧
      v.toNat < 256 ^ s.cfg.w.bytes ∧
      (∀ j, j < s.cfg.w.bytes → v.extractLsb' (8 * j) 8 =
        s.mem.read (512 * src.toNat + s.wrk.cursor * s.cfg.w.bytes + j)) ∧
      t.wrk = { s.wrk with cursor := s.wrk.cursor + 1 } ∧ t.mem = s.mem ∧
      t.ph.phase = (if s.wrk.cursor + 1 < n then .pumpCount
        else pumpExitPhase s.cfg.layout s.wrk.snap) ∧ t.ses = s.ses ∧ t.fault = none)

/-- The two thresholds (42 R177, R178): a word is drained only when the count read is 2 or more, filled only when it
is below 120; otherwise the pump goes to its exit test. -/
def Obligations.PumpThresholds : Prop :=
  ∀ s : State, s.running → s.ph.phase = .pumpCount →
    (∀ dst n, s.wrk.td = .read dst n → s.wrk.cursor < n →
      ∃ t v, step s = .next t ∧ t.trace = rdTxn s.cfg .status v :: s.trace ∧ t.wrk = s.wrk ∧
        t.mem = s.mem ∧ t.fault = none ∧
        t.ph.phase = (if 2 ≤ ((decStatus s.cfg.layout v).fifoCount).toNat then .pumpMove
          else pumpExitPhase s.cfg.layout s.wrk.snap)) ∧
    (∀ src n, s.wrk.td = .write src n →
      ∃ t v, step s = .next t ∧ t.trace = rdTxn s.cfg .status v :: s.trace ∧ t.wrk = s.wrk ∧
        t.mem = s.mem ∧ t.fault = none ∧
        t.ph.phase = (if ((decStatus s.cfg.layout v).fifoCount).toNat < 120 then .pumpMove
          else pumpExitPhase s.cfg.layout s.wrk.snap))

/-- 60 R275: the fault of the read pump, before any DATA access, and what the block answers from then on (R272). That
the step records the fault with `busy` 1, for a row by itself too, and that the next step answers it is the model's
reading (notes/assumptions/18.md). Nothing is said of the buffer of a READ_BLOCK, which has not returned `Ok` (93
U2). -/
def Obligations.FullBufferOverruns : Prop :=
  ∀ (s : State) (dst : Dest) (n : Nat), s.running → s.ph.phase = .pumpCount →
    s.wrk.td = .read dst n → n ≤ s.wrk.cursor →
    2 ≤ statusCount s.cfg.layout (readVal .status s) →
    ∃ t, step s = .next t ∧ t.fault = some (.bufferOverrun s.wrk.cursor) ∧ t.ph.busy = true ∧
      t.trace = rdTxn s.cfg .status (readVal .status s) :: s.trace ∧
      (∀ a, ¬ (s.ph.ctx = .readBlock ∧ inBuffer s.wrk.buf a) → t.mem.read a = s.mem.read a) ∧
      t.wrk = s.wrk ∧ t.env.fifo = (envStep s).env.fifo ∧ t.completion = s.completion ∧
      step t = .fault (.bufferOverrun s.wrk.cursor)

/-- 42 R177, R178, 60 R280: the head of a pump iteration. With the data request of its direction in the snapshot the
pump goes to the STATUS read, the write pump only while source words remain; otherwise the exit test on that
snapshot comes before the deadline test, so `data_transfer_over` or an error flag ends the pump whatever the clock
says. -/
def Obligations.PumpExitBeforeDeadline : Prop :=
  ∀ s : State, s.running → s.ph.phase = .pumpSnap →
    ∃ t v, step s = .next t ∧ t.trace = rdTxn s.cfg .rintsts v :: s.trace ∧ t.wrk.snap = v ∧
      t.wrk.cursor = s.wrk.cursor ∧ t.mem = s.mem ∧
      (∀ dst n, s.wrk.td = .read dst n →
        t.ph.phase = (if (decRintsts s.cfg.layout v).rxDataRequest = 1 then .pumpCount
          else if (decRintsts s.cfg.layout v).dataTransferOver = 1 ∨
            v &&& errMask s.cfg.layout ≠ 0 then .ackRead else .pumpTime)) ∧
      (∀ src n, s.wrk.td = .write src n →
        t.ph.phase = (if (decRintsts s.cfg.layout v).txDataRequest = 1 ∧ s.wrk.cursor < n
          then .pumpCount
          else if (decRintsts s.cfg.layout v).dataTransferOver = 1 ∨
            v &&& errMask s.cfg.layout ≠ 0 then .ackRead else .pumpTime))

/-- 20 R66, at the store, at a move of the environment and over every step of the block. After an external reset of the
block the register is unspecified (10 R49). -/
def Obligations.FlagsClearOnlyWhenWritten : Prop :=
  (∀ (r : Regs) (v : Word) (k : Nat), k < 16 →
    (r.store .rintsts v).rintsts.getLsbD k = (r.rintsts.getLsbD k && !v.getLsbD k)) ∧
  (∀ (m : EnvMove) (s : State) (k : Nat), k < 16 →
    (applyMove m s).regs.rintsts.getLsbD k = (s.regs.rintsts.getLsbD k || m.rint.getLsbD k)) ∧
  (∀ (s t : State) (k : Nat), step s = .next t → k < 16 → s.regs.rintsts.getLsbD k = true →
    t.regs.rintsts.getLsbD k = true ∨
      (s.ph.phase = .ackWrite ∧ s.wrk.snap.getLsbD k = true) ∨ s.resetLine = true)

/-- 20 R68: `start` rises only by the block's write of CMD (step 2 or the commit pulse), and falls only by acceptance: the
environment's move lowers it and nothing is in flight after it. After an external reset of the block the register
is unspecified (10 R49). What a write of CMD does while `start` is 1 is the model's choice (notes/assumptions/34.md). -/
def Obligations.StartRisesOnlyByWriting : Prop :=
  (∀ (m : EnvMove) (s : State), cmdStart s.cfg.layout (applyMove m s).regs.cmd =
    (cmdStart s.cfg.layout s.regs.cmd && cmdStart s.cfg.layout m.cmd)) ∧
  (∀ s t : State, step s = .next t → cmdStart s.cfg.layout s.regs.cmd = false →
    cmdStart s.cfg.layout t.regs.cmd = true →
    (s.ph.phase = .writeCmd ∧ t.regs.cmd = s.wrk.cmdval) ∨
      (s.ph.phase = .pulseWrite ∧ t.regs.cmd = s.cfg.commitClkValue) ∨ s.resetLine = true) ∧
  (∀ s t : State, SeqInv s → step s = .next t → cmdStart s.cfg.layout s.regs.cmd = true →
    cmdStart s.cfg.layout t.regs.cmd = false →
    (cmdStart s.cfg.layout (nextMove s).cmd = false ∧ t.env.flight = none) ∨
      s.resetLine = true) ∧
  (∀ s t : State, step s = .next t → s.ph.phase ≠ .writeCmd → s.ph.phase ≠ .pulseWrite →
    t.env.flight = s.env.flight ∨ (t.env.flight = none ∧
      cmdStart s.cfg.layout t.regs.cmd = false) ∨ s.resetLine = true)

/-- 20 R68: a value is in flight only while `start` reads 1, over every step from a state that meets the sequencing
invariant; `flightFits` says it. -/
def Obligations.InFlightOnlyWhileStart : Prop :=
  ∀ s t : State, SeqInv s → flightFits s → step s = .next t → flightFits t

/-- 20 R67, 40 R137, 60 R279: the CTRL write of a reset request is the value read with that one reset bit set; every other
bit, `int_enable` among them, is written back as read; and a reset bit rises only by such a write, or with an external
reset of the block (10 R49). -/
def Obligations.ResetBitsOnlyRequested : Prop :=
  (∀ (s : State) (f : ResetBit), s.running → s.ph.phase = .resetRead f →
    ∃ t v, Host.Core.run core 2 s = .next t ∧
      t.trace = wrTxn s.cfg .ctrl (v ||| f.mask s.cfg.layout) :: rdTxn s.cfg .ctrl v :: s.trace ∧
      t.regs.ctrl = v ||| f.mask s.cfg.layout ∧ t.ph.phase = .wait (.reset f) .start) ∧
  (∀ (s t : State) (k : Nat), step s = .next t → (resetMask s.cfg.layout).getLsbD k = true →
    s.regs.ctrl.getLsbD k = false → t.regs.ctrl.getLsbD k = true →
    (∃ f, s.ph.phase = .resetWrite f ∧
      (s.wrk.held ||| f.mask s.cfg.layout).getLsbD k = true) ∨ s.resetLine = true)

/-- 60 R284: over every step of the block the clock never decreases, and every reading of it is recorded as the clock
stands; whatever moves the environment makes, the clock passes every deadline; so every bounded wait ends, and so does
the loop of a pump (42 R171, R177, R178, 70 R329), a read pump that overruns with its fault (60 R275). The standstill
counter that makes every sequence of moves fair is the model's form of the assumption (notes/assumptions/22.md), the
recorded fault its reading of R272 (notes/assumptions/18.md). -/
def Obligations.ClockNeverRunsBack : Prop :=
  (∀ s t : State, step s = .next t →
    s.env.clock ≤ t.env.clock ∧
    (∀ n, t.trace = .now n :: s.trace → n = t.env.clock)) ∧
  (∀ (s : State) (deadline : Nat), ∃ k, deadline ≤ (Nat.iterate envStep k s).env.clock) ∧
  (∀ (s : State) (w : WaitFor) (stage : WaitStage), s.running → s.ph.phase = .wait w stage →
    ∃ k t, Host.Core.run core k s = .next t ∧ (∀ stage', t.ph.phase ≠ .wait w stage') ∧
      t.mem = s.mem ∧ t.ses = s.ses ∧ t.fault = none) ∧
  (∀ s : State, s.running →
    s.ph.phase = .pumpSnap ∨ s.ph.phase = .pumpCount ∨ s.ph.phase = .pumpMove ∨
      s.ph.phase = .pumpTime →
    ∃ k t, Host.Core.run core k s = .next t ∧ t.ses = s.ses ∧
      ((t.fault = none ∧ (t.ph.phase = .ackRead ∨ t.ph.phase = .idle ∨ t.ph.phase = .returned)) ∨
        t.fault = some (.bufferOverrun t.wrk.cursor)))

/-- 20 R69, 70 R327: the values in force at the card clock change only when a commit pulse is accepted (the move of the
environment lowers `start`, 20 R68), and then they are those of CLKDIV and CLKENA at that moment; or the block is reset from outside, after which the clock is not known
(10 R49). -/
def Obligations.CardClockChangesOnlyByPulse : Prop :=
  ∀ s t : State, step s = .next t →
    (t.env.cardDiv = s.env.cardDiv ∧ t.env.cardEna = s.env.cardEna) ∨
    (cmdStart s.cfg.layout s.regs.cmd = true ∧
      (∃ a, s.env.flight = some { value := s.cfg.commitClkValue, arg := a }) ∧
      cmdStart s.cfg.layout (nextMove s).cmd = false ∧
      cmdStart s.cfg.layout (envStep s).regs.cmd = false ∧ (envStep s).env.flight = none ∧
      t.env.cardDiv = s.regs.clkdiv ∧ t.env.cardEna = s.regs.clkena) ∨
    s.resetLine = true

/-- 20 R70, 40 R132, R133: a DATA read answers the oldest word and removes it, a DATA write appends its word unless the
FIFO is full, and STATUS shows the filled count. That the count is one of whole words and a residue below
`UNITS_PER_ACCESS` (the last two clauses) is the model's reading (notes/assumptions/14.md). -/
def Obligations.FifoAccessLaw : Prop :=
  (∀ (s : State) (v : DWord) (vs : List DWord), (envStep s).env.fifo = v :: vs →
    fifoVal s = v &&& wordMask s.cfg.w ∧ (fifoRead s).env.fifo = vs) ∧
  (∀ (s : State) (v : DWord), (nextMove s).full = false →
    (fifoWrite v s).env.fifo = (envStep s).env.fifo ++ [v &&& wordMask s.cfg.w]) ∧
  (∀ s : State, s.cfg.wf = true → statusCount s.cfg.layout (envStep s).regs.status =
    (s.cfg.units.count * (envStep s).env.fifo.length + (envStep s).env.residue) % 8192) ∧
  (∀ s : State, (envStep s).env.residue < s.cfg.units.count)

/-- ClockReset (44 R222) against a controller that accepts both pulses: seven MMIO transactions in order, then
FifoReset; the card clock is on with `INIT_DIV`. That the first pulse replaces a value still in flight is the model's
choice (notes/assumptions/34.md). -/
def Obligations.ClockResetRuns : Prop :=
  ∀ (s : State) (ms rest : List EnvMove),
    s.running → s.ph.phase = .clockOff → s.ph.ctx = .pulseOff → s.env.script = ms ++ rest →
    ms.length = 9 → (∀ m ∈ ms, cmdStart s.cfg.layout m.cmd = false) →
    ∃ t c0 c1 n0 n1, Host.Core.run core 11 s = .next t ∧
      t.trace = rdTxn s.cfg .cmd c1 :: .now n1 :: wrTxn s.cfg .cmd s.cfg.commitClkValue ::
        wrTxn s.cfg .clkena (encClkena s.cfg.layout { cclkEnable := 1 }) ::
        wrTxn s.cfg .clkdiv (encClkdiv s.cfg.layout { divider := s.cfg.initDiv }) ::
        rdTxn s.cfg .cmd c0 :: .now n0 :: wrTxn s.cfg .cmd s.cfg.commitClkValue ::
        wrTxn s.cfg .clkena 0 :: s.trace ∧
      t.ph.ps = .fifoReset ∧ t.ph.phase = .resetRead .fifo ∧ t.ph.ctx = .fifoReset ∧
      t.regs.clkena = encClkena s.cfg.layout { cclkEnable := 1 } ∧
      t.regs.clkdiv = encClkdiv s.cfg.layout { divider := s.cfg.initDiv } ∧
      t.env.cardDiv = t.regs.clkdiv ∧ t.env.cardEna = t.regs.clkena ∧
      t.ses = s.ses ∧ t.mem = s.mem ∧ t.regs.cmdarg = s.regs.cmdarg

/-- 44 R223 to R227, the successful path of INIT from FifoReset to VoltageCheck: a reset request whose bit reads 0 is
Done; Done in FifoReset leads to BusWidthInit, which writes CTYPE with 0 and begins the DMA reset request; Done in
DmaReset begins GO_IDLE_STATE with argument 0; its Ok begins SEND_IF_COND with 0x1AA. -/
def Obligations.ResetsLeadToVoltageCheck : Prop :=
  (∀ (s : State) (f : ResetBit), s.running → s.ph.phase = .wait (.reset f) .poll →
    ResetBit.reads s.cfg.layout (readVal .ctrl s) f = false →
    ∃ t, step s = .next t ∧ t.result = some .done ∧ t.ph.xstep = 0 ∧
      (s.ph.ctx = resetCtx f → t.ph.phase = .returned ∧ t.ph.ctx = s.ph.ctx) ∧
      t.trace = rdTxn s.cfg .ctrl (readVal .ctrl s) :: s.trace ∧ t.ses = s.ses ∧ t.mem = s.mem ∧
      t.ph.ps = s.ph.ps) ∧
  (∀ s : State, s.running → s.ph.phase = .returned → s.ph.ctx = .fifoReset →
    s.result = some .done →
    step s = .next { s with ph := { s.ph with ps := .busWidthInit, phase := .busWidth } }) ∧
  (∀ s : State, s.running → s.ph.phase = .busWidth →
    ∃ t, step s = .next t ∧ t.regs.ctype = 0 ∧ t.trace = wrTxn s.cfg .ctype 0 :: s.trace ∧
      t.ph.ps = .dmaReset ∧ t.ph.phase = .resetRead .dma ∧ t.ph.ctx = .dmaReset ∧
      t.ses = s.ses ∧ t.mem = s.mem ∧ t.wrk = s.wrk) ∧
  (∀ s : State, s.running → s.ph.phase = .returned → s.ph.ctx = .dmaReset →
    s.result = some .done →
    step s = .next { s with
      ph := { s.ph with ps := .idle, xstep := 1, phase := .wait .ready .start, ctx := .goIdle }
      wrk := { s.wrk with cmdval := cardValue s.cfg .goIdleState, arg := 0, td := .none }
      result := none }) ∧
  (∀ (s : State) (r0 r1 r2 r3 : Word), s.running → s.ph.phase = .returned → s.ph.ctx = .goIdle →
    s.result = some (.xchg (.ok r0 r1 r2 r3)) →
    step s = .next { s with
      ph := { s.ph with
        ps := .voltageCheck, xstep := 1, phase := .wait .ready .start, ctx := .voltage }
      wrk := { s.wrk with cmdval := cardValue s.cfg .sendIfCond, arg := 0x000001AA, td := .none }
      result := none })

/-- 44 R235: a mandatory state whose exchange, pulse or reset request did not succeed (for OcrPoll, whose last attempt
did not) ends INIT: Failed, unusable, Err(InitError), and no further access; VoltageCheck and BusWidthQuery go
on. -/
def Obligations.MandatoryFailureAbortsInit : Prop :=
  (∀ s : State, s.running → s.ph.phase = .returned →
    (((s.ph.ctx = .pulseOff ∨ s.ph.ctx = .pulseOn ∨ s.ph.ctx = .fifoReset ∨ s.ph.ctx = .dmaReset) ∧
        s.result = some .timedOut) ∨
      ((s.ph.ctx = .goIdle ∨ s.ph.ctx = .identify ∨ s.ph.ctx = .address ∨ s.ph.ctx = .csd ∨
          s.ph.ctx = .select) ∧
        ∃ o, s.result = some (.xchg o) ∧ ∀ r0 r1 r2 r3, o ≠ .ok r0 r1 r2 r3) ∨
      (s.ph.ctx = .ocrApp ∧ s.cfg.ocrRetryMax ≤ s.ses.ocrAttempts ∧
        ∃ o, s.result = some (.xchg o) ∧ ∀ r0 r1 r2 r3, o ≠ .ok r0 r1 r2 r3) ∨
      (s.ph.ctx = .ocrCond ∧ s.cfg.ocrRetryMax ≤ s.ses.ocrAttempts ∧
        ∃ o, s.result = some (.xchg o) ∧ ∀ r0 r1 r2 r3, o = .ok r0 r1 r2 r3 →
          r0.getLsbD s.cfg.ocrReadyBit = false)) →
    step s = .next { s with
      completion := some (.err .initError)
      ses := { s.ses with usable := false }
      ph := { s.ph with ps := .failed, busy := false, xstep := 0, phase := .idle, ctx := .bare } }) ∧
  (∀ (s : State) (o : XOutcome), s.running → s.ph.phase = .returned → s.result = some (.xchg o) →
    (∀ r0 r1 r2 r3, o ≠ .ok r0 r1 r2 r3) →
    (s.ph.ctx = .voltage ∨ s.ph.ctx = .scrApp ∨ s.ph.ctx = .scr) →
    ∃ t, step s = .next t ∧ t.ph.ps ≠ .failed ∧
      (t.completion = s.completion ∨ t.completion = some .ok))

/-- 44 R227, R233, 60 R292: VoltageCheck and BusWidthQuery go on whatever their exchange answered. -/
def Obligations.BestEffortStatesContinue : Prop :=
  ∀ (s : State) (o : XOutcome), s.running → s.ph.phase = .returned → s.result = some (.xchg o) →
    (s.ph.ctx = .voltage →
      ∃ t, step s = .next t ∧ t.ph.ps = .ocrPoll ∧ t.ses.ocrAttempts = 1 ∧ t.wrk.arg = 0 ∧
        t.wrk.cmdval = cardValue s.cfg .appCmd ∧ t.wrk.td = .none ∧ t.trace = s.trace ∧
        t.ph.phase = .wait .ready .start ∧ t.ph.xstep = 1 ∧ t.ph.ctx = .ocrApp ∧
        (t.ses.ver = true ↔ ∃ r0 r1 r2 r3, o = .ok r0 r1 r2 r3 ∧ r0.extractLsb' 0 12 = 0x1AA)) ∧
    (s.ph.ctx = .scr ∨ (s.ph.ctx = .scrApp ∧ ∀ r0 r1 r2 r3, o ≠ .ok r0 r1 r2 r3) →
      ∃ t, step s = .next t ∧ t.ph.ps = .ready ∧ t.ses.usable = true ∧
        t.completion = some .ok ∧ t.isIdle = true ∧ t.trace = s.trace ∧ t.mem = s.mem) ∧
    (s.ph.ctx = .scrApp → (∃ r0 r1 r2 r3, o = .ok r0 r1 r2 r3) →
      ∃ t, step s = .next t ∧ t.ph.phase = .blockSize ∧ t.ph.ctx = .scr ∧ t.trace = s.trace ∧
        t.ph.ps = s.ph.ps)

/-- 44 R228: an attempt that failed with attempts left is followed by one delay and then by the next attempt; a ready
response records `hcs` and begins Identify. -/
def Obligations.OcrPollRetries : Prop :=
  (∀ (s : State) (o : XOutcome), s.running → s.ph.phase = .returned →
    s.result = some (.xchg o) → s.ses.ocrAttempts < s.cfg.ocrRetryMax →
    ((s.ph.ctx = .ocrApp ∧ ∀ r0 r1 r2 r3, o ≠ .ok r0 r1 r2 r3) ∨
      (s.ph.ctx = .ocrCond ∧ ∀ r0 r1 r2 r3, o = .ok r0 r1 r2 r3 →
        r0.getLsbD s.cfg.ocrReadyBit = false)) →
    ∃ t, Host.Core.run core 2 s = .next t ∧ t.trace = .sleep s.cfg.ocrDelay :: s.trace ∧
      t.ses = { s.ses with ocrAttempts := s.ses.ocrAttempts + 1 } ∧ t.wrk.arg = 0 ∧
      t.wrk.cmdval = cardValue s.cfg .appCmd ∧ t.ph.ctx = .ocrApp ∧
      t.ph.phase = .wait .ready .start ∧ t.ph.xstep = 1 ∧ t.wrk.td = .none ∧
      t.ph.ps = s.ph.ps) ∧
  (∀ (s : State) (r0 r1 r2 r3 : Word), s.running → s.ph.phase = .returned →
    s.result = some (.xchg (.ok r0 r1 r2 r3)) →
    (s.ph.ctx = .ocrApp →
      ∃ t, step s = .next t ∧ t.wrk.cmdval = cardValue s.cfg .sdSendOpCond ∧
        t.wrk.arg = s.cfg.ocrArg ∧ t.wrk.td = .none ∧ t.ph.phase = .wait .ready .start ∧
        t.ph.xstep = 1 ∧ t.ph.ctx = .ocrCond ∧ t.ph.ps = s.ph.ps ∧ t.ses = s.ses ∧
        t.trace = s.trace) ∧
    (s.ph.ctx = .ocrCond → r0.getLsbD s.cfg.ocrReadyBit = true →
      ∃ t, step s = .next t ∧ t.ph.ps = .identify ∧
        t.ses = { s.ses with hcs := r0.getLsbD s.cfg.ocrCcsBit } ∧
        t.wrk.cmdval = cardValue s.cfg .allSendCid ∧ t.wrk.arg = 0 ∧ t.wrk.td = .none ∧
        t.ph.phase = .wait .ready .start ∧ t.ph.xstep = 1 ∧ t.ph.ctx = .identify ∧
        t.trace = s.trace))

/-- 44 R229 to R232: what Identify and AddressAssign record, and that ReadCSD, Select and BusWidthQuery's prefix carry
the RCA in the upper argument bits. -/
def Obligations.SessionRegistersRecorded : Prop :=
  ∀ (s : State) (r0 r1 r2 r3 : Word), s.running → s.ph.phase = .returned →
    s.result = some (.xchg (.ok r0 r1 r2 r3)) →
    (s.ph.ctx = .identify → ∃ t, step s = .next t ∧ t.ph.ps = .addressAssign ∧
      t.ses = { s.ses with cid := assembleCid s.cfg r0 r1 r2 r3 } ∧
      t.wrk.cmdval = cardValue s.cfg .sendRelativeAddr ∧ t.wrk.arg = 0 ∧ t.wrk.td = .none ∧
      t.ph.phase = .wait .ready .start ∧ t.ph.xstep = 1 ∧ t.ph.ctx = .address ∧
      t.trace = s.trace) ∧
    (s.ph.ctx = .address → ∃ t, step s = .next t ∧ t.ph.ps = .readCsd ∧
      t.ses = { s.ses with rca := r0.extractLsb' 16 16, cardStatus := r0.extractLsb' 0 16 } ∧
      t.wrk.cmdval = cardValue s.cfg .sendCsd ∧ t.wrk.arg = r0 &&& 0xFFFF0000 ∧
      t.wrk.td = .none ∧ t.ph.phase = .wait .ready .start ∧ t.ph.xstep = 1 ∧ t.ph.ctx = .csd ∧
      t.trace = s.trace) ∧
    (s.ph.ctx = .csd → ∃ t, step s = .next t ∧ t.ph.ps = .select ∧ t.ses = s.ses ∧
      t.wrk.cmdval = cardValue s.cfg .selectCard ∧
      t.wrk.arg = s.ses.rca.setWidth 32 <<< 16 ∧ t.wrk.td = .none ∧
      t.ph.phase = .wait .ready .start ∧ t.ph.xstep = 1 ∧ t.ph.ctx = .select ∧
      t.trace = s.trace) ∧
    (s.ph.ctx = .select → ∃ t, step s = .next t ∧ t.ph.ps = .busWidthQuery ∧ t.ses = s.ses ∧
      t.wrk.cmdval = cardValue s.cfg .appCmd ∧ t.wrk.arg = s.ses.rca.setWidth 32 <<< 16 ∧
      t.wrk.td = .none ∧ t.ph.phase = .wait .ready .start ∧ t.ph.xstep = 1 ∧
      t.ph.ctx = .scrApp ∧ t.trace = s.trace)

/-- 44 R220, over every step from a state that meets the sequencing invariant: the protocol state stays, moves along
the sequence or to Failed, or is reset. -/
def Obligations.StatesAdvanceInOrder : Prop :=
  ∀ s t : State, SeqInv s → step s = .next t →
    t.ph.ps = s.ph.ps ∨ s.ph.ps.edge t.ph.ps = true ∨
      (s.resetLine = true ∧ t.ph.ps = .powerOn)

/-- A step of an idle block in service runs the decoded instruction, with the request taken from the port (45 R250). -/
def Obligations.StepRunsDecodedInstruction : Prop :=
  (∀ (s : State) (o : OpWords) (i : Instr), s.inService → s.isIdle = true → s.port = some o →
    decode o = .ok i → step s = exec i { s with port := none }) ∧
  (∀ (s : State) (nbits w : Nat) (i : Instr), s.cfg.wf = true → decodeTableWord nbits w = some i →
    step (s.withFetchWord nbits w) = exec i
      { s with port := none, fault := none, resetLine := false
               ph := { s.ph with phase := .idle, busy := false } })

/-- 45 R256, 60 R272, 70 R311, R310: a request while an operation is in progress is refused; a recorded fault is answered
by every step; an idle block with no request makes no access; the reset line leaves the reset values, and the
controller's registers as the environment says (10 R49). The port, the answer of a faulted block, the refusal of the
whole step, the reset line as a field and the refusal of bad parameters are the model's (notes/assumptions/9.md, 18.md,
19.md, 20.md, 33.md). -/
def Obligations.BusyRefusedFaultKept : Prop :=
  (∀ (s : State) (i : Instr), s.ph.phase ≠ .idle ∨ s.ph.busy = true →
    exec i s = .refused .busy) ∧
  (∀ s : State, s.inService → s.isIdle = false → s.port.isSome = true → step s = .refused .busy) ∧
  (∀ (s : State) (f : Fault), s.resetLine = false → s.cfg.wf = true → s.fault = some f →
    step s = .fault f) ∧
  (∀ s : State, s.inService → s.isIdle = true → s.port = none → step s = .next s) ∧
  (∀ s : State, s.resetLine = true → ∃ t, step s = .next t ∧ t.ph.ps = .powerOn ∧
    t.ph.busy = false ∧ t.ph.xstep = 0 ∧ t.ses.usable = false ∧ t.ses.ocrAttempts = 0 ∧
    t.completion = none ∧ t.fault = none ∧ t.regs = (nextMove s).boot.regs ∧ t.trace = s.trace ∧
    ∀ a, ¬ (s.ph.ctx = .readBlock ∧ inBuffer s.wrk.buf a) → t.mem.read a = s.mem.read a) ∧
  (∀ s : State, s.resetLine = false → s.cfg.wf = false → step s = .refused .badParameters)

/-- 10 R48: the values the spec gives for reset. -/
def Obligations.ResetLeavesStatedValues : Prop :=
  State.reset.ph.ps = .powerOn ∧ State.reset.ph.busy = false ∧ State.reset.ses.usable = false ∧
  State.reset.ph.xstep = 0 ∧ State.reset.ses.ocrAttempts = 0 ∧ State.reset.trace = [] ∧
  State.reset.cfg.wf = true ∧ step State.reset = .next State.reset

/-- 10 R49: "a model must let the first read of CTRL, CMD, STATUS, RINTSTS and RESP0 to RESP3 return any value": after an
external reset of the block, under every allowed parameter set, and from State.reset, whose values are the model's
choice (notes/assumptions/5.md). -/
def Obligations.FirstReadsAnswerAnything : Prop :=
  (∀ (s : State) (X : Reg) (v : Word), s.resetLine = true → s.cfg.wf = true →
    X ∈ [Reg.ctrl, .cmd, .status, .rintsts, .resp0, .resp1, .resp2, .resp3] →
    ∃ m0 m1, ∀ rest, ∃ t, step { s with env := { s.env with script := m0 :: m1 :: rest } } = .next t ∧
      readVal X t = v) ∧
  (∀ (X : Reg) (v : Word),
    X ∈ [Reg.ctrl, .cmd, .status, .rintsts, .resp0, .resp1, .resp2, .resp3] →
    ∃ m, ∀ rest, readVal X { State.reset with
      env := { State.reset.env with script := m :: rest } } = v)

/-- The five invariants hold right after reset, and so does the canonical form of memory. PumpInv rests there on the
descriptor being none (notes/assumptions/6.md: R48 leaves it unspecified), the form of memory on nothing being listed
(notes/assumptions/12.md), flightFits on nothing being in flight (notes/assumptions/5.md). -/
def Obligations.InvariantsAtReset : Prop :=
  SeqInv State.reset ∧ OcrInv State.reset ∧ PumpInv State.reset ∧ TxnInv State.reset ∧
    flightFits State.reset ∧ State.reset.mem.wf = true

/-- The sequencing invariant is kept by every step (10 R41, R42, 42 R170, 44 R220, 60 R272). -/
def Obligations.SequencingKept : Prop :=
  ∀ s t : State, SeqInv s → step s = .next t → SeqInv t

/-- 44 R228, 70 R329: OcrPoll never makes more than OCR_RETRY_MAX attempts. -/
def Obligations.OcrAttemptsBounded : Prop :=
  ∀ s t : State, OcrInv s → step s = .next t → OcrInv t

/-- 42 R177, R178, 70 R318: a pump never moves a word outside the descriptor's buffer, and the descriptor's length is
its buffer's. -/
def Obligations.PumpsStayInBuffer : Prop :=
  ∀ s t : State, PumpInv s → step s = .next t → PumpInv t

/-- 00 R11: a data-bearing command is always preceded by programming the matching size registers: throughout its
exchange they hold its byte length, and no data-bearing command is sent in any other way. -/
def Obligations.TransfersAreProgrammed : Prop :=
  ∀ s t : State, SeqInv s → TxnInv s → step s = .next t → TxnInv t

/-- The canonical form of client memory is kept by every step (a form of the model: notes/assumptions/12.md). -/
def Obligations.MemoryStaysCanonical : Prop :=
  ∀ s t : State, s.mem.wf = true → step s = .next t → t.mem.wf = true

/-- 20 R79, 70 R318: over every step, every byte outside the ones the step may store to reads as before; a step that
stores nothing leaves all of memory. From a state that meets the pump invariant, a byte that changes lies inside the
borrowed buffer: that of the descriptor, or that of the READ_BLOCK that does not return `Ok`. -/
def Obligations.MemoryFrame : Prop :=
  (∀ (s t : State) (a : Nat), step s = .next t → ¬ mayStore s a →
    t.mem.read a = s.mem.read a) ∧
  (∀ (s t : State) (a : Nat), PumpInv s → step s = .next t → t.mem.read a ≠ s.mem.read a →
    (s.ph.phase = .pumpMove ∧ ∃ h n, s.wrk.td = .read (.client h) n ∧ inBuffer h a) ∨
    (s.ph.ctx = .readBlock ∧ inBuffer s.wrk.buf a) ∨
    (s.isIdle = true ∧ ∃ o index buf, s.port = some o ∧
      decode o = .ok (.readBlock index buf) ∧ inBuffer buf.handle a))

/-- 00 R12, 20 R60, 40 R131: a step makes at most one port transaction, and only an allowed one; registers the block never
writes are unchanged but for an external reset of the block (10 R49), and so are the parameters. That the environment
leaves those registers alone is the model's reading (notes/assumptions/21.md). -/
def Obligations.OneTransactionPerStep : Prop :=
  ∀ s t : State, step s = .next t →
    (t.trace = s.trace ∨ ∃ x, t.trace = x :: s.trace ∧ allowedTxn s.cfg x) ∧
    t.cfg = s.cfg ∧ t.lens = s.lens ∧
    (s.resetLine = false → t.regs.pwren = s.regs.pwren ∧ t.regs.cdetect = s.regs.cdetect ∧
      t.regs.bmod = s.regs.bmod ∧ t.regs.dbaddrl = s.regs.dbaddrl ∧
      t.regs.dbaddru = s.regs.dbaddru)

/-- 60 R291: no step produces UnknownError. -/
def Obligations.UnknownErrorNeverProduced : Prop :=
  ∀ s t : State, step s = .next t → t.completion = some (.err .unknownError) →
    s.completion = some (.err .unknownError)
end

