-- ==== Sys2Proof/Laws/State.lean ====
section
/-! SUPPORT. One lemma per field per update of State, true by rfl: later proofs never unfold a record
update. -/

namespace Sys2Proof.Machine

variable (s : State)

/-! ### State.log -/

@[simp] theorem log_cfg (t : Txn) : (State.log t s).cfg = s.cfg := rfl
@[simp] theorem log_regs (t : Txn) : (State.log t s).regs = s.regs := rfl
@[simp] theorem log_env (t : Txn) : (State.log t s).env = s.env := rfl
@[simp] theorem log_ph (t : Txn) : (State.log t s).ph = s.ph := rfl
@[simp] theorem log_ses (t : Txn) : (State.log t s).ses = s.ses := rfl
@[simp] theorem log_wrk (t : Txn) : (State.log t s).wrk = s.wrk := rfl
@[simp] theorem log_mem (t : Txn) : (State.log t s).mem = s.mem := rfl
@[simp] theorem log_lens (t : Txn) : (State.log t s).lens = s.lens := rfl
@[simp] theorem log_port (t : Txn) : (State.log t s).port = s.port := rfl
@[simp] theorem log_completion (t : Txn) : (State.log t s).completion = s.completion := rfl
@[simp] theorem log_result (t : Txn) : (State.log t s).result = s.result := rfl
@[simp] theorem log_fault (t : Txn) : (State.log t s).fault = s.fault := rfl
@[simp] theorem log_resetLine (t : Txn) : (State.log t s).resetLine = s.resetLine := rfl
@[simp] theorem log_trace (t : Txn) :
    (State.log t s).trace = t :: s.trace := rfl

/-! ### dropMove -/

@[simp] theorem dropMove_cfg : (dropMove s).cfg = s.cfg := rfl
@[simp] theorem dropMove_regs : (dropMove s).regs = s.regs := rfl
@[simp] theorem dropMove_ph : (dropMove s).ph = s.ph := rfl
@[simp] theorem dropMove_ses : (dropMove s).ses = s.ses := rfl
@[simp] theorem dropMove_wrk : (dropMove s).wrk = s.wrk := rfl
@[simp] theorem dropMove_mem : (dropMove s).mem = s.mem := rfl
@[simp] theorem dropMove_lens : (dropMove s).lens = s.lens := rfl
@[simp] theorem dropMove_port : (dropMove s).port = s.port := rfl
@[simp] theorem dropMove_completion : (dropMove s).completion = s.completion := rfl
@[simp] theorem dropMove_result : (dropMove s).result = s.result := rfl
@[simp] theorem dropMove_fault : (dropMove s).fault = s.fault := rfl
@[simp] theorem dropMove_resetLine : (dropMove s).resetLine = s.resetLine := rfl
@[simp] theorem dropMove_trace : (dropMove s).trace = s.trace := rfl

/-! ### applyMove -/

@[simp] theorem applyMove_cfg (m : EnvMove) : (applyMove m s).cfg = s.cfg := rfl
@[simp] theorem applyMove_regs (m : EnvMove) :
    (applyMove m s).regs = moveRegs m s := rfl
@[simp] theorem applyMove_env (m : EnvMove) :
    (applyMove m s).env = moveEnv m s := rfl
@[simp] theorem applyMove_ph (m : EnvMove) : (applyMove m s).ph = s.ph := rfl
@[simp] theorem applyMove_ses (m : EnvMove) : (applyMove m s).ses = s.ses := rfl
@[simp] theorem applyMove_wrk (m : EnvMove) : (applyMove m s).wrk = s.wrk := rfl
@[simp] theorem applyMove_mem (m : EnvMove) : (applyMove m s).mem = s.mem := rfl
@[simp] theorem applyMove_lens (m : EnvMove) : (applyMove m s).lens = s.lens := rfl
@[simp] theorem applyMove_port (m : EnvMove) : (applyMove m s).port = s.port := rfl
@[simp] theorem applyMove_completion (m : EnvMove) : (applyMove m s).completion = s.completion := rfl
@[simp] theorem applyMove_result (m : EnvMove) : (applyMove m s).result = s.result := rfl
@[simp] theorem applyMove_fault (m : EnvMove) : (applyMove m s).fault = s.fault := rfl
@[simp] theorem applyMove_resetLine (m : EnvMove) : (applyMove m s).resetLine = s.resetLine := rfl
@[simp] theorem applyMove_trace (m : EnvMove) : (applyMove m s).trace = s.trace := rfl

/-! ### envStep -/

@[simp] theorem envStep_cfg : (envStep s).cfg = s.cfg := rfl
@[simp] theorem envStep_ph : (envStep s).ph = s.ph := rfl
@[simp] theorem envStep_ses : (envStep s).ses = s.ses := rfl
@[simp] theorem envStep_wrk : (envStep s).wrk = s.wrk := rfl
@[simp] theorem envStep_mem : (envStep s).mem = s.mem := rfl
@[simp] theorem envStep_lens : (envStep s).lens = s.lens := rfl
@[simp] theorem envStep_port : (envStep s).port = s.port := rfl
@[simp] theorem envStep_completion : (envStep s).completion = s.completion := rfl
@[simp] theorem envStep_result : (envStep s).result = s.result := rfl
@[simp] theorem envStep_fault : (envStep s).fault = s.fault := rfl
@[simp] theorem envStep_resetLine : (envStep s).resetLine = s.resetLine := rfl
@[simp] theorem envStep_trace : (envStep s).trace = s.trace := rfl

/-! ### storeReg -/

@[simp] theorem storeReg_cfg (X : Reg) (v : Word) : (storeReg X v s).cfg = s.cfg := rfl
@[simp] theorem storeReg_regs (X : Reg) (v : Word) :
    (storeReg X v s).regs = s.regs.store X v := rfl
@[simp] theorem storeReg_ph (X : Reg) (v : Word) : (storeReg X v s).ph = s.ph := rfl
@[simp] theorem storeReg_ses (X : Reg) (v : Word) : (storeReg X v s).ses = s.ses := rfl
@[simp] theorem storeReg_wrk (X : Reg) (v : Word) : (storeReg X v s).wrk = s.wrk := rfl
@[simp] theorem storeReg_mem (X : Reg) (v : Word) : (storeReg X v s).mem = s.mem := rfl
@[simp] theorem storeReg_lens (X : Reg) (v : Word) : (storeReg X v s).lens = s.lens := rfl
@[simp] theorem storeReg_port (X : Reg) (v : Word) : (storeReg X v s).port = s.port := rfl
@[simp] theorem storeReg_completion (X : Reg) (v : Word) : (storeReg X v s).completion = s.completion := rfl
@[simp] theorem storeReg_result (X : Reg) (v : Word) : (storeReg X v s).result = s.result := rfl
@[simp] theorem storeReg_fault (X : Reg) (v : Word) : (storeReg X v s).fault = s.fault := rfl
@[simp] theorem storeReg_resetLine (X : Reg) (v : Word) : (storeReg X v s).resetLine = s.resetLine := rfl
@[simp] theorem storeReg_trace (X : Reg) (v : Word) :
    (storeReg X v s).trace = .memWrite (s.cfg.addr X) 4 (v.setWidth 64) :: s.trace := rfl

/-! ### readReg -/

@[simp] theorem readReg_cfg (X : Reg) : (readReg X s).cfg = s.cfg := rfl
@[simp] theorem readReg_regs (X : Reg) :
    (readReg X s).regs = (envStep s).regs := rfl
@[simp] theorem readReg_env (X : Reg) :
    (readReg X s).env = (envStep s).env := rfl
@[simp] theorem readReg_ph (X : Reg) : (readReg X s).ph = s.ph := rfl
@[simp] theorem readReg_ses (X : Reg) : (readReg X s).ses = s.ses := rfl
@[simp] theorem readReg_wrk (X : Reg) : (readReg X s).wrk = s.wrk := rfl
@[simp] theorem readReg_mem (X : Reg) : (readReg X s).mem = s.mem := rfl
@[simp] theorem readReg_lens (X : Reg) : (readReg X s).lens = s.lens := rfl
@[simp] theorem readReg_port (X : Reg) : (readReg X s).port = s.port := rfl
@[simp] theorem readReg_completion (X : Reg) : (readReg X s).completion = s.completion := rfl
@[simp] theorem readReg_result (X : Reg) : (readReg X s).result = s.result := rfl
@[simp] theorem readReg_fault (X : Reg) : (readReg X s).fault = s.fault := rfl
@[simp] theorem readReg_resetLine (X : Reg) : (readReg X s).resetLine = s.resetLine := rfl
@[simp] theorem readReg_trace (X : Reg) :
    (readReg X s).trace = .memRead (s.cfg.addr X) 4 ((readVal X s).setWidth 64) :: s.trace := rfl

/-! ### writeReg -/

@[simp] theorem writeReg_cfg (X : Reg) (v : Word) : (writeReg X v s).cfg = s.cfg := rfl
@[simp] theorem writeReg_regs (X : Reg) (v : Word) :
    (writeReg X v s).regs = (envStep s).regs.store X v := rfl
@[simp] theorem writeReg_ph (X : Reg) (v : Word) : (writeReg X v s).ph = s.ph := rfl
@[simp] theorem writeReg_ses (X : Reg) (v : Word) : (writeReg X v s).ses = s.ses := rfl
@[simp] theorem writeReg_wrk (X : Reg) (v : Word) : (writeReg X v s).wrk = s.wrk := rfl
@[simp] theorem writeReg_mem (X : Reg) (v : Word) : (writeReg X v s).mem = s.mem := rfl
@[simp] theorem writeReg_lens (X : Reg) (v : Word) : (writeReg X v s).lens = s.lens := rfl
@[simp] theorem writeReg_port (X : Reg) (v : Word) : (writeReg X v s).port = s.port := rfl
@[simp] theorem writeReg_completion (X : Reg) (v : Word) : (writeReg X v s).completion = s.completion := rfl
@[simp] theorem writeReg_result (X : Reg) (v : Word) : (writeReg X v s).result = s.result := rfl
@[simp] theorem writeReg_fault (X : Reg) (v : Word) : (writeReg X v s).fault = s.fault := rfl
@[simp] theorem writeReg_resetLine (X : Reg) (v : Word) : (writeReg X v s).resetLine = s.resetLine := rfl
@[simp] theorem writeReg_trace (X : Reg) (v : Word) :
    (writeReg X v s).trace = .memWrite (s.cfg.addr X) 4 (v.setWidth 64) :: s.trace := rfl

/-! ### fifoRead -/

@[simp] theorem fifoRead_cfg : (fifoRead s).cfg = s.cfg := rfl
@[simp] theorem fifoRead_regs :
    (fifoRead s).regs = (envStep s).regs := rfl
@[simp] theorem fifoRead_ph : (fifoRead s).ph = s.ph := rfl
@[simp] theorem fifoRead_ses : (fifoRead s).ses = s.ses := rfl
@[simp] theorem fifoRead_wrk : (fifoRead s).wrk = s.wrk := rfl
@[simp] theorem fifoRead_mem : (fifoRead s).mem = s.mem := rfl
@[simp] theorem fifoRead_lens : (fifoRead s).lens = s.lens := rfl
@[simp] theorem fifoRead_port : (fifoRead s).port = s.port := rfl
@[simp] theorem fifoRead_completion : (fifoRead s).completion = s.completion := rfl
@[simp] theorem fifoRead_result : (fifoRead s).result = s.result := rfl
@[simp] theorem fifoRead_fault : (fifoRead s).fault = s.fault := rfl
@[simp] theorem fifoRead_resetLine : (fifoRead s).resetLine = s.resetLine := rfl
@[simp] theorem fifoRead_trace :
    (fifoRead s).trace = .memRead s.cfg.dataAddr s.cfg.w.bytes (fifoVal s) :: s.trace := rfl

/-! ### fifoWrite -/

@[simp] theorem fifoWrite_cfg (v : DWord) : (fifoWrite v s).cfg = s.cfg := rfl
@[simp] theorem fifoWrite_regs (v : DWord) :
    (fifoWrite v s).regs = (envStep s).regs := rfl
@[simp] theorem fifoWrite_ph (v : DWord) : (fifoWrite v s).ph = s.ph := rfl
@[simp] theorem fifoWrite_ses (v : DWord) : (fifoWrite v s).ses = s.ses := rfl
@[simp] theorem fifoWrite_wrk (v : DWord) : (fifoWrite v s).wrk = s.wrk := rfl
@[simp] theorem fifoWrite_mem (v : DWord) : (fifoWrite v s).mem = s.mem := rfl
@[simp] theorem fifoWrite_lens (v : DWord) : (fifoWrite v s).lens = s.lens := rfl
@[simp] theorem fifoWrite_port (v : DWord) : (fifoWrite v s).port = s.port := rfl
@[simp] theorem fifoWrite_completion (v : DWord) : (fifoWrite v s).completion = s.completion := rfl
@[simp] theorem fifoWrite_result (v : DWord) : (fifoWrite v s).result = s.result := rfl
@[simp] theorem fifoWrite_fault (v : DWord) : (fifoWrite v s).fault = s.fault := rfl
@[simp] theorem fifoWrite_resetLine (v : DWord) : (fifoWrite v s).resetLine = s.resetLine := rfl
@[simp] theorem fifoWrite_trace (v : DWord) :
    (fifoWrite v s).trace = .memWrite s.cfg.dataAddr s.cfg.w.bytes (v &&& wordMask s.cfg.w) :: s.trace := rfl

/-! ### readClock -/

@[simp] theorem readClock_cfg : (readClock s).cfg = s.cfg := rfl
@[simp] theorem readClock_regs :
    (readClock s).regs = (envStep s).regs := rfl
@[simp] theorem readClock_env :
    (readClock s).env = (envStep s).env := rfl
@[simp] theorem readClock_ph : (readClock s).ph = s.ph := rfl
@[simp] theorem readClock_ses : (readClock s).ses = s.ses := rfl
@[simp] theorem readClock_wrk : (readClock s).wrk = s.wrk := rfl
@[simp] theorem readClock_mem : (readClock s).mem = s.mem := rfl
@[simp] theorem readClock_lens : (readClock s).lens = s.lens := rfl
@[simp] theorem readClock_port : (readClock s).port = s.port := rfl
@[simp] theorem readClock_completion : (readClock s).completion = s.completion := rfl
@[simp] theorem readClock_result : (readClock s).result = s.result := rfl
@[simp] theorem readClock_fault : (readClock s).fault = s.fault := rfl
@[simp] theorem readClock_resetLine : (readClock s).resetLine = s.resetLine := rfl
@[simp] theorem readClock_trace :
    (readClock s).trace = .now (clockVal s) :: s.trace := rfl

/-! ### sleepFor -/

@[simp] theorem sleepFor_cfg (d : Nat) : (sleepFor d s).cfg = s.cfg := rfl
@[simp] theorem sleepFor_regs (d : Nat) :
    (sleepFor d s).regs = (envStep s).regs := rfl
@[simp] theorem sleepFor_env (d : Nat) :
    (sleepFor d s).env = (envStep s).env := rfl
@[simp] theorem sleepFor_ph (d : Nat) : (sleepFor d s).ph = s.ph := rfl
@[simp] theorem sleepFor_ses (d : Nat) : (sleepFor d s).ses = s.ses := rfl
@[simp] theorem sleepFor_wrk (d : Nat) : (sleepFor d s).wrk = s.wrk := rfl
@[simp] theorem sleepFor_mem (d : Nat) : (sleepFor d s).mem = s.mem := rfl
@[simp] theorem sleepFor_lens (d : Nat) : (sleepFor d s).lens = s.lens := rfl
@[simp] theorem sleepFor_port (d : Nat) : (sleepFor d s).port = s.port := rfl
@[simp] theorem sleepFor_completion (d : Nat) : (sleepFor d s).completion = s.completion := rfl
@[simp] theorem sleepFor_result (d : Nat) : (sleepFor d s).result = s.result := rfl
@[simp] theorem sleepFor_fault (d : Nat) : (sleepFor d s).fault = s.fault := rfl
@[simp] theorem sleepFor_resetLine (d : Nat) : (sleepFor d s).resetLine = s.resetLine := rfl
@[simp] theorem sleepFor_trace (d : Nat) :
    (sleepFor d s).trace = .sleep d :: s.trace := rfl

/-! ### State.goto -/

@[simp] theorem goto_cfg (p : Phase) : (s.goto p).cfg = s.cfg := rfl
@[simp] theorem goto_regs (p : Phase) : (s.goto p).regs = s.regs := rfl
@[simp] theorem goto_env (p : Phase) : (s.goto p).env = s.env := rfl
@[simp] theorem goto_ph (p : Phase) :
    (s.goto p).ph = { s.ph with phase := p } := rfl
@[simp] theorem goto_ses (p : Phase) : (s.goto p).ses = s.ses := rfl
@[simp] theorem goto_wrk (p : Phase) : (s.goto p).wrk = s.wrk := rfl
@[simp] theorem goto_mem (p : Phase) : (s.goto p).mem = s.mem := rfl
@[simp] theorem goto_lens (p : Phase) : (s.goto p).lens = s.lens := rfl
@[simp] theorem goto_port (p : Phase) : (s.goto p).port = s.port := rfl
@[simp] theorem goto_completion (p : Phase) : (s.goto p).completion = s.completion := rfl
@[simp] theorem goto_result (p : Phase) : (s.goto p).result = s.result := rfl
@[simp] theorem goto_fault (p : Phase) : (s.goto p).fault = s.fault := rfl
@[simp] theorem goto_resetLine (p : Phase) : (s.goto p).resetLine = s.resetLine := rfl
@[simp] theorem goto_trace (p : Phase) : (s.goto p).trace = s.trace := rfl

/-! ### State.gotoStep -/

@[simp] theorem gotoStep_cfg (k : Fin 9) (p : Phase) : (s.gotoStep k p).cfg = s.cfg := rfl
@[simp] theorem gotoStep_regs (k : Fin 9) (p : Phase) : (s.gotoStep k p).regs = s.regs := rfl
@[simp] theorem gotoStep_env (k : Fin 9) (p : Phase) : (s.gotoStep k p).env = s.env := rfl
@[simp] theorem gotoStep_ph (k : Fin 9) (p : Phase) :
    (s.gotoStep k p).ph = { s.ph with xstep := k, phase := p } := rfl
@[simp] theorem gotoStep_ses (k : Fin 9) (p : Phase) : (s.gotoStep k p).ses = s.ses := rfl
@[simp] theorem gotoStep_wrk (k : Fin 9) (p : Phase) : (s.gotoStep k p).wrk = s.wrk := rfl
@[simp] theorem gotoStep_mem (k : Fin 9) (p : Phase) : (s.gotoStep k p).mem = s.mem := rfl
@[simp] theorem gotoStep_lens (k : Fin 9) (p : Phase) : (s.gotoStep k p).lens = s.lens := rfl
@[simp] theorem gotoStep_port (k : Fin 9) (p : Phase) : (s.gotoStep k p).port = s.port := rfl
@[simp] theorem gotoStep_completion (k : Fin 9) (p : Phase) : (s.gotoStep k p).completion = s.completion := rfl
@[simp] theorem gotoStep_result (k : Fin 9) (p : Phase) : (s.gotoStep k p).result = s.result := rfl
@[simp] theorem gotoStep_fault (k : Fin 9) (p : Phase) : (s.gotoStep k p).fault = s.fault := rfl
@[simp] theorem gotoStep_resetLine (k : Fin 9) (p : Phase) : (s.gotoStep k p).resetLine = s.resetLine := rfl
@[simp] theorem gotoStep_trace (k : Fin 9) (p : Phase) : (s.gotoStep k p).trace = s.trace := rfl

/-! ### State.enter -/

@[simp] theorem enter_cfg (q : PState) : (s.enter q).cfg = s.cfg := rfl
@[simp] theorem enter_regs (q : PState) : (s.enter q).regs = s.regs := rfl
@[simp] theorem enter_env (q : PState) : (s.enter q).env = s.env := rfl
@[simp] theorem enter_ph (q : PState) :
    (s.enter q).ph = { s.ph with ps := q } := rfl
@[simp] theorem enter_ses (q : PState) : (s.enter q).ses = s.ses := rfl
@[simp] theorem enter_wrk (q : PState) : (s.enter q).wrk = s.wrk := rfl
@[simp] theorem enter_mem (q : PState) : (s.enter q).mem = s.mem := rfl
@[simp] theorem enter_lens (q : PState) : (s.enter q).lens = s.lens := rfl
@[simp] theorem enter_port (q : PState) : (s.enter q).port = s.port := rfl
@[simp] theorem enter_completion (q : PState) : (s.enter q).completion = s.completion := rfl
@[simp] theorem enter_result (q : PState) : (s.enter q).result = s.result := rfl
@[simp] theorem enter_fault (q : PState) : (s.enter q).fault = s.fault := rfl
@[simp] theorem enter_resetLine (q : PState) : (s.enter q).resetLine = s.resetLine := rfl
@[simp] theorem enter_trace (q : PState) : (s.enter q).trace = s.trace := rfl

/-! ### State.await -/

@[simp] theorem await_cfg (w : WaitFor) : (s.await w).cfg = s.cfg := rfl
@[simp] theorem await_regs (w : WaitFor) : (s.await w).regs = s.regs := rfl
@[simp] theorem await_env (w : WaitFor) : (s.await w).env = s.env := rfl
@[simp] theorem await_ph (w : WaitFor) :
    (s.await w).ph = { s.ph with phase := .wait w .start } := rfl
@[simp] theorem await_ses (w : WaitFor) : (s.await w).ses = s.ses := rfl
@[simp] theorem await_wrk (w : WaitFor) : (s.await w).wrk = s.wrk := rfl
@[simp] theorem await_mem (w : WaitFor) : (s.await w).mem = s.mem := rfl
@[simp] theorem await_lens (w : WaitFor) : (s.await w).lens = s.lens := rfl
@[simp] theorem await_port (w : WaitFor) : (s.await w).port = s.port := rfl
@[simp] theorem await_completion (w : WaitFor) : (s.await w).completion = s.completion := rfl
@[simp] theorem await_result (w : WaitFor) : (s.await w).result = s.result := rfl
@[simp] theorem await_fault (w : WaitFor) : (s.await w).fault = s.fault := rfl
@[simp] theorem await_resetLine (w : WaitFor) : (s.await w).resetLine = s.resetLine := rfl
@[simp] theorem await_trace (w : WaitFor) : (s.await w).trace = s.trace := rfl

/-! ### raise -/

@[simp] theorem raise_cfg (f : Fault) : (raise f s).cfg = s.cfg := rfl
@[simp] theorem raise_regs (f : Fault) : (raise f s).regs = s.regs := rfl
@[simp] theorem raise_env (f : Fault) : (raise f s).env = s.env := rfl
@[simp] theorem raise_ph (f : Fault) :
    (raise f s).ph = { s.ph with busy := true } := rfl
@[simp] theorem raise_ses (f : Fault) : (raise f s).ses = s.ses := rfl
@[simp] theorem raise_wrk (f : Fault) : (raise f s).wrk = s.wrk := rfl
@[simp] theorem raise_mem (f : Fault) : (raise f s).mem = s.mem := rfl
@[simp] theorem raise_lens (f : Fault) : (raise f s).lens = s.lens := rfl
@[simp] theorem raise_port (f : Fault) : (raise f s).port = s.port := rfl
@[simp] theorem raise_completion (f : Fault) : (raise f s).completion = s.completion := rfl
@[simp] theorem raise_result (f : Fault) : (raise f s).result = s.result := rfl
@[simp] theorem raise_fault (f : Fault) :
    (raise f s).fault = some f := rfl
@[simp] theorem raise_resetLine (f : Fault) : (raise f s).resetLine = s.resetLine := rfl
@[simp] theorem raise_trace (f : Fault) : (raise f s).trace = s.trace := rfl

/-! ### complete -/

@[simp] theorem complete_cfg (c : Completion) : (complete c s).cfg = s.cfg := rfl
@[simp] theorem complete_regs (c : Completion) : (complete c s).regs = s.regs := rfl
@[simp] theorem complete_env (c : Completion) : (complete c s).env = s.env := rfl
@[simp] theorem complete_ph (c : Completion) :
    (complete c s).ph = { s.ph with busy := false, xstep := 0, phase := .idle, ctx := .bare } := rfl
@[simp] theorem complete_ses (c : Completion) : (complete c s).ses = s.ses := rfl
@[simp] theorem complete_wrk (c : Completion) : (complete c s).wrk = s.wrk := rfl
@[simp] theorem complete_mem (c : Completion) : (complete c s).mem = s.mem := rfl
@[simp] theorem complete_lens (c : Completion) : (complete c s).lens = s.lens := rfl
@[simp] theorem complete_port (c : Completion) : (complete c s).port = s.port := rfl
@[simp] theorem complete_completion (c : Completion) :
    (complete c s).completion = some c := rfl
@[simp] theorem complete_result (c : Completion) : (complete c s).result = s.result := rfl
@[simp] theorem complete_fault (c : Completion) : (complete c s).fault = s.fault := rfl
@[simp] theorem complete_resetLine (c : Completion) : (complete c s).resetLine = s.resetLine := rfl
@[simp] theorem complete_trace (c : Completion) : (complete c s).trace = s.trace := rfl

/-! ### finish -/

@[simp] theorem finish_cfg (r : OpResult) : (finish r s).cfg = s.cfg := rfl
@[simp] theorem finish_regs (r : OpResult) : (finish r s).regs = s.regs := rfl
@[simp] theorem finish_env (r : OpResult) : (finish r s).env = s.env := rfl
@[simp] theorem finish_ph (r : OpResult) :
    (finish r s).ph = { s.ph with
      xstep := 0
      phase := if s.ph.ctx.alone then .idle else .returned
      ctx := if s.ph.ctx.alone then .bare else s.ph.ctx } := rfl
@[simp] theorem finish_ses (r : OpResult) : (finish r s).ses = s.ses := rfl
@[simp] theorem finish_wrk (r : OpResult) : (finish r s).wrk = s.wrk := rfl
@[simp] theorem finish_mem (r : OpResult) : (finish r s).mem = s.mem := rfl
@[simp] theorem finish_lens (r : OpResult) : (finish r s).lens = s.lens := rfl
@[simp] theorem finish_port (r : OpResult) : (finish r s).port = s.port := rfl
@[simp] theorem finish_completion (r : OpResult) : (finish r s).completion = s.completion := rfl
@[simp] theorem finish_result (r : OpResult) :
    (finish r s).result = some r := rfl
@[simp] theorem finish_fault (r : OpResult) : (finish r s).fault = s.fault := rfl
@[simp] theorem finish_resetLine (r : OpResult) : (finish r s).resetLine = s.resetLine := rfl
@[simp] theorem finish_trace (r : OpResult) : (finish r s).trace = s.trace := rfl

/-! ### noteSnap -/

@[simp] theorem noteSnap_cfg (X : Reg) (v : Word) : (noteSnap X v s).cfg = s.cfg := rfl
@[simp] theorem noteSnap_regs (X : Reg) (v : Word) : (noteSnap X v s).regs = s.regs := rfl
@[simp] theorem noteSnap_env (X : Reg) (v : Word) : (noteSnap X v s).env = s.env := rfl
@[simp] theorem noteSnap_ph (X : Reg) (v : Word) : (noteSnap X v s).ph = s.ph := rfl
@[simp] theorem noteSnap_ses (X : Reg) (v : Word) : (noteSnap X v s).ses = s.ses := rfl
@[simp] theorem noteSnap_wrk (X : Reg) (v : Word) :
    (noteSnap X v s).wrk = { s.wrk with snap := if X = .rintsts then v else s.wrk.snap } := rfl
@[simp] theorem noteSnap_mem (X : Reg) (v : Word) : (noteSnap X v s).mem = s.mem := rfl
@[simp] theorem noteSnap_lens (X : Reg) (v : Word) : (noteSnap X v s).lens = s.lens := rfl
@[simp] theorem noteSnap_port (X : Reg) (v : Word) : (noteSnap X v s).port = s.port := rfl
@[simp] theorem noteSnap_completion (X : Reg) (v : Word) : (noteSnap X v s).completion = s.completion := rfl
@[simp] theorem noteSnap_result (X : Reg) (v : Word) : (noteSnap X v s).result = s.result := rfl
@[simp] theorem noteSnap_fault (X : Reg) (v : Word) : (noteSnap X v s).fault = s.fault := rfl
@[simp] theorem noteSnap_resetLine (X : Reg) (v : Word) : (noteSnap X v s).resetLine = s.resetLine := rfl
@[simp] theorem noteSnap_trace (X : Reg) (v : Word) : (noteSnap X v s).trace = s.trace := rfl

/-! ### putWord -/

@[simp] theorem putWord_cfg (dst : Dest) (k : Nat) (v : DWord) : (putWord dst k v s).cfg = s.cfg := rfl
@[simp] theorem putWord_regs (dst : Dest) (k : Nat) (v : DWord) : (putWord dst k v s).regs = s.regs := rfl
@[simp] theorem putWord_env (dst : Dest) (k : Nat) (v : DWord) : (putWord dst k v s).env = s.env := rfl
@[simp] theorem putWord_ph (dst : Dest) (k : Nat) (v : DWord) : (putWord dst k v s).ph = s.ph := rfl
@[simp] theorem putWord_ses (dst : Dest) (k : Nat) (v : DWord) : (putWord dst k v s).ses = s.ses := rfl
@[simp] theorem putWord_wrk (dst : Dest) (k : Nat) (v : DWord) :
    (putWord dst k v s).wrk = { s.wrk with scr := destScr s.cfg dst k v s.wrk.scr } := rfl
@[simp] theorem putWord_mem (dst : Dest) (k : Nat) (v : DWord) :
    (putWord dst k v s).mem = destMemory s.cfg dst k v s.mem := rfl
@[simp] theorem putWord_lens (dst : Dest) (k : Nat) (v : DWord) : (putWord dst k v s).lens = s.lens := rfl
@[simp] theorem putWord_port (dst : Dest) (k : Nat) (v : DWord) : (putWord dst k v s).port = s.port := rfl
@[simp] theorem putWord_completion (dst : Dest) (k : Nat) (v : DWord) : (putWord dst k v s).completion = s.completion := rfl
@[simp] theorem putWord_result (dst : Dest) (k : Nat) (v : DWord) : (putWord dst k v s).result = s.result := rfl
@[simp] theorem putWord_fault (dst : Dest) (k : Nat) (v : DWord) : (putWord dst k v s).fault = s.fault := rfl
@[simp] theorem putWord_resetLine (dst : Dest) (k : Nat) (v : DWord) : (putWord dst k v s).resetLine = s.resetLine := rfl
@[simp] theorem putWord_trace (dst : Dest) (k : Nat) (v : DWord) : (putWord dst k v s).trace = s.trace := rfl

/-! ### State.advanceCursor -/

@[simp] theorem advanceCursor_cfg : (s.advanceCursor).cfg = s.cfg := rfl
@[simp] theorem advanceCursor_regs : (s.advanceCursor).regs = s.regs := rfl
@[simp] theorem advanceCursor_env : (s.advanceCursor).env = s.env := rfl
@[simp] theorem advanceCursor_ph : (s.advanceCursor).ph = s.ph := rfl
@[simp] theorem advanceCursor_ses : (s.advanceCursor).ses = s.ses := rfl
@[simp] theorem advanceCursor_wrk :
    (s.advanceCursor).wrk = { s.wrk with cursor := s.wrk.cursor + 1 } := rfl
@[simp] theorem advanceCursor_mem : (s.advanceCursor).mem = s.mem := rfl
@[simp] theorem advanceCursor_lens : (s.advanceCursor).lens = s.lens := rfl
@[simp] theorem advanceCursor_port : (s.advanceCursor).port = s.port := rfl
@[simp] theorem advanceCursor_completion : (s.advanceCursor).completion = s.completion := rfl
@[simp] theorem advanceCursor_result : (s.advanceCursor).result = s.result := rfl
@[simp] theorem advanceCursor_fault : (s.advanceCursor).fault = s.fault := rfl
@[simp] theorem advanceCursor_resetLine : (s.advanceCursor).resetLine = s.resetLine := rfl
@[simp] theorem advanceCursor_trace : (s.advanceCursor).trace = s.trace := rfl

/-! ### takeRequest -/

@[simp] theorem takeRequest_cfg : (takeRequest s).cfg = s.cfg := rfl
@[simp] theorem takeRequest_regs : (takeRequest s).regs = s.regs := rfl
@[simp] theorem takeRequest_env : (takeRequest s).env = s.env := rfl
@[simp] theorem takeRequest_ph : (takeRequest s).ph = s.ph := rfl
@[simp] theorem takeRequest_ses : (takeRequest s).ses = s.ses := rfl
@[simp] theorem takeRequest_wrk : (takeRequest s).wrk = s.wrk := rfl
@[simp] theorem takeRequest_mem : (takeRequest s).mem = s.mem := rfl
@[simp] theorem takeRequest_lens : (takeRequest s).lens = s.lens := rfl
@[simp] theorem takeRequest_port :
    (takeRequest s).port = none := rfl
@[simp] theorem takeRequest_completion : (takeRequest s).completion = s.completion := rfl
@[simp] theorem takeRequest_result : (takeRequest s).result = s.result := rfl
@[simp] theorem takeRequest_fault : (takeRequest s).fault = s.fault := rfl
@[simp] theorem takeRequest_resetLine : (takeRequest s).resetLine = s.resetLine := rfl
@[simp] theorem takeRequest_trace : (takeRequest s).trace = s.trace := rfl

/-! ### beginRequest -/

@[simp] theorem beginRequest_cfg : (beginRequest s).cfg = s.cfg := rfl
@[simp] theorem beginRequest_regs : (beginRequest s).regs = s.regs := rfl
@[simp] theorem beginRequest_env : (beginRequest s).env = s.env := rfl
@[simp] theorem beginRequest_ph :
    (beginRequest s).ph = { s.ph with busy := true } := rfl
@[simp] theorem beginRequest_ses : (beginRequest s).ses = s.ses := rfl
@[simp] theorem beginRequest_wrk : (beginRequest s).wrk = s.wrk := rfl
@[simp] theorem beginRequest_mem : (beginRequest s).mem = s.mem := rfl
@[simp] theorem beginRequest_lens : (beginRequest s).lens = s.lens := rfl
@[simp] theorem beginRequest_port : (beginRequest s).port = s.port := rfl
@[simp] theorem beginRequest_completion :
    (beginRequest s).completion = none := rfl
@[simp] theorem beginRequest_result : (beginRequest s).result = s.result := rfl
@[simp] theorem beginRequest_fault : (beginRequest s).fault = s.fault := rfl
@[simp] theorem beginRequest_resetLine : (beginRequest s).resetLine = s.resetLine := rfl
@[simp] theorem beginRequest_trace : (beginRequest s).trace = s.trace := rfl

/-! ### The environment's fields that no store touches -/

@[simp] theorem storeReg_env (X : Reg) (v : Word) :
    (storeReg X v s).env =
      { s.env with flight := storeFlight s.cfg s.regs X v s.env.flight } := rfl
@[simp] theorem writeReg_env (X : Reg) (v : Word) :
    (writeReg X v s).env =
      { (envStep s).env with
        flight := storeFlight s.cfg (envStep s).regs X v (envStep s).env.flight } := rfl
@[simp] theorem fifoRead_env :
    (fifoRead s).env = { (envStep s).env with fifo := (envStep s).env.fifo.tail } := rfl
@[simp] theorem fifoWrite_env (v : DWord) :
    (fifoWrite v s).env =
      { (envStep s).env with
        fifo := if (nextMove s).full then (envStep s).env.fifo
          else (envStep s).env.fifo ++ [v &&& wordMask s.cfg.w] } := rfl

/-! ## Operations that are only a name for another -/

@[simp] theorem enterStep6_eq : enterStep6 s = s.gotoStep 6 .ackRead := rfl
@[simp] theorem enterStep3_eq : enterStep3 s = s.gotoStep 3 (.wait .accepted .start) := rfl
@[simp] theorem enterStep2_eq : enterStep2 s = s.gotoStep 2 .writeArg := rfl
@[simp] theorem enterStep1_eq : enterStep1 s = s.gotoStep 1 (.wait .ready .start) := rfl
@[simp] theorem timedOutAt_eq (k : Fin 9) : timedOutAt k s = finish (.xchg (.timedOut k)) s := rfl
@[simp] theorem issueGoIdleState_eq (ctx : Ctx) :
    issueGoIdleState ctx s = startXchg .goIdleState 0 .none ctx s := rfl
@[simp] theorem issueAllSendCid_eq (ctx : Ctx) :
    issueAllSendCid ctx s = startXchg .allSendCid 0 .none ctx s := rfl
@[simp] theorem issueSendRelativeAddr_eq (ctx : Ctx) :
    issueSendRelativeAddr ctx s = startXchg .sendRelativeAddr 0 .none ctx s := rfl
@[simp] theorem issueSelectCard_eq (ctx : Ctx) :
    issueSelectCard ctx s = startXchg .selectCard (rcaArg s.ses.rca) .none ctx s := rfl
@[simp] theorem issueSendIfCond_eq (ctx : Ctx) :
    issueSendIfCond ctx s = startXchg .sendIfCond ifCondArg .none ctx s := rfl
@[simp] theorem issueSendCsd_eq (ctx : Ctx) :
    issueSendCsd ctx s = startXchg .sendCsd (rcaArg s.ses.rca) .none ctx s := rfl
@[simp] theorem issueReadSingleBlock_eq (index buf : Word) (ctx : Ctx) :
    issueReadSingleBlock index buf ctx s = startXchg .readSingleBlock index (.read (.client buf) s.cfg.blockWords) ctx s := rfl
@[simp] theorem issueWriteSingleBlock_eq (index buf : Word) (ctx : Ctx) :
    issueWriteSingleBlock index buf ctx s = startXchg .writeSingleBlock index (.write buf s.cfg.blockWords) ctx s := rfl
@[simp] theorem issueSdSendOpCond_eq (ctx : Ctx) :
    issueSdSendOpCond ctx s = startXchg .sdSendOpCond s.cfg.ocrArg .none ctx s := rfl
@[simp] theorem issueSendScr_eq (ctx : Ctx) :
    issueSendScr ctx s = startXchg .sendScr 0 (.read .scr s.cfg.scrWords) ctx s := rfl
@[simp] theorem issueAppCmd_eq (arg : Word) (ctx : Ctx) :
    issueAppCmd arg ctx s = startXchg .appCmd arg .none ctx s := rfl

/-! ## Starting an exchange, a pulse, a reset request, a transfer -/

@[simp] theorem startXchg_cfg (c : CardCmd) (a : Word) (d : Descriptor) (x : Ctx) :
    (startXchg c a d x s).cfg = s.cfg := rfl
@[simp] theorem startXchg_regs (c : CardCmd) (a : Word) (d : Descriptor) (x : Ctx) :
    (startXchg c a d x s).regs = s.regs := rfl
@[simp] theorem startXchg_env (c : CardCmd) (a : Word) (d : Descriptor) (x : Ctx) :
    (startXchg c a d x s).env = s.env := rfl
@[simp] theorem startXchg_ses (c : CardCmd) (a : Word) (d : Descriptor) (x : Ctx) :
    (startXchg c a d x s).ses = s.ses := rfl
@[simp] theorem startXchg_mem (c : CardCmd) (a : Word) (d : Descriptor) (x : Ctx) :
    (startXchg c a d x s).mem = s.mem := rfl
@[simp] theorem startXchg_lens (c : CardCmd) (a : Word) (d : Descriptor) (x : Ctx) :
    (startXchg c a d x s).lens = s.lens := rfl
@[simp] theorem startXchg_port (c : CardCmd) (a : Word) (d : Descriptor) (x : Ctx) :
    (startXchg c a d x s).port = s.port := rfl
@[simp] theorem startXchg_completion (c : CardCmd) (a : Word) (d : Descriptor) (x : Ctx) :
    (startXchg c a d x s).completion = s.completion := rfl
@[simp] theorem startXchg_fault (c : CardCmd) (a : Word) (d : Descriptor) (x : Ctx) :
    (startXchg c a d x s).fault = s.fault := rfl
@[simp] theorem startXchg_resetLine (c : CardCmd) (a : Word) (d : Descriptor) (x : Ctx) :
    (startXchg c a d x s).resetLine = s.resetLine := rfl
@[simp] theorem startXchg_trace (c : CardCmd) (a : Word) (d : Descriptor) (x : Ctx) :
    (startXchg c a d x s).trace = s.trace := rfl
@[simp] theorem startXchg_ph (c : CardCmd) (a : Word) (d : Descriptor) (x : Ctx) :
    (startXchg c a d x s).ph =
      { s.ph with xstep := 1, phase := .wait .ready .start, ctx := x } := rfl
@[simp] theorem startXchg_wrk (c : CardCmd) (a : Word) (d : Descriptor) (x : Ctx) :
    (startXchg c a d x s).wrk =
      { s.wrk with cmdval := cardValue s.cfg c, arg := a, td := d } := rfl
@[simp] theorem startXchg_result (c : CardCmd) (a : Word) (d : Descriptor) (x : Ctx) :
    (startXchg c a d x s).result = none := rfl
@[simp] theorem issueCommitClk_cfg (x : Ctx) : (issueCommitClk x s).cfg = s.cfg := rfl
@[simp] theorem issueCommitClk_regs (x : Ctx) : (issueCommitClk x s).regs = s.regs := rfl
@[simp] theorem issueCommitClk_env (x : Ctx) : (issueCommitClk x s).env = s.env := rfl
@[simp] theorem issueCommitClk_ses (x : Ctx) : (issueCommitClk x s).ses = s.ses := rfl
@[simp] theorem issueCommitClk_mem (x : Ctx) : (issueCommitClk x s).mem = s.mem := rfl
@[simp] theorem issueCommitClk_lens (x : Ctx) : (issueCommitClk x s).lens = s.lens := rfl
@[simp] theorem issueCommitClk_port (x : Ctx) : (issueCommitClk x s).port = s.port := rfl
@[simp] theorem issueCommitClk_completion (x : Ctx) : (issueCommitClk x s).completion = s.completion := rfl
@[simp] theorem issueCommitClk_fault (x : Ctx) : (issueCommitClk x s).fault = s.fault := rfl
@[simp] theorem issueCommitClk_resetLine (x : Ctx) : (issueCommitClk x s).resetLine = s.resetLine := rfl
@[simp] theorem issueCommitClk_trace (x : Ctx) : (issueCommitClk x s).trace = s.trace := rfl
@[simp] theorem issueCommitClk_wrk (x : Ctx) : (issueCommitClk x s).wrk = s.wrk := rfl
@[simp] theorem issueCommitClk_ph (x : Ctx) : (issueCommitClk x s).ph =
    { s.ph with phase := .pulseWrite, ctx := x } := rfl
@[simp] theorem issueCommitClk_result (x : Ctx) : (issueCommitClk x s).result = none := rfl
@[simp] theorem startReset_cfg (f : ResetBit) (x : Ctx) : (startReset f x s).cfg = s.cfg := rfl
@[simp] theorem startReset_regs (f : ResetBit) (x : Ctx) : (startReset f x s).regs = s.regs := rfl
@[simp] theorem startReset_env (f : ResetBit) (x : Ctx) : (startReset f x s).env = s.env := rfl
@[simp] theorem startReset_ses (f : ResetBit) (x : Ctx) : (startReset f x s).ses = s.ses := rfl
@[simp] theorem startReset_mem (f : ResetBit) (x : Ctx) : (startReset f x s).mem = s.mem := rfl
@[simp] theorem startReset_lens (f : ResetBit) (x : Ctx) : (startReset f x s).lens = s.lens := rfl
@[simp] theorem startReset_port (f : ResetBit) (x : Ctx) : (startReset f x s).port = s.port := rfl
@[simp] theorem startReset_completion (f : ResetBit) (x : Ctx) : (startReset f x s).completion = s.completion := rfl
@[simp] theorem startReset_fault (f : ResetBit) (x : Ctx) : (startReset f x s).fault = s.fault := rfl
@[simp] theorem startReset_resetLine (f : ResetBit) (x : Ctx) : (startReset f x s).resetLine = s.resetLine := rfl
@[simp] theorem startReset_trace (f : ResetBit) (x : Ctx) : (startReset f x s).trace = s.trace := rfl
@[simp] theorem startReset_wrk (f : ResetBit) (x : Ctx) : (startReset f x s).wrk = s.wrk := rfl
@[simp] theorem startReset_ph (f : ResetBit) (x : Ctx) : (startReset f x s).ph =
    { s.ph with phase := .resetRead f, ctx := x } := rfl
@[simp] theorem startReset_result (f : ResetBit) (x : Ctx) : (startReset f x s).result = none := rfl
@[simp] theorem startTxn_cfg (x : Ctx) : (startTxn x s).cfg = s.cfg := rfl
@[simp] theorem startTxn_regs (x : Ctx) : (startTxn x s).regs = s.regs := rfl
@[simp] theorem startTxn_env (x : Ctx) : (startTxn x s).env = s.env := rfl
@[simp] theorem startTxn_ses (x : Ctx) : (startTxn x s).ses = s.ses := rfl
@[simp] theorem startTxn_mem (x : Ctx) : (startTxn x s).mem = s.mem := rfl
@[simp] theorem startTxn_lens (x : Ctx) : (startTxn x s).lens = s.lens := rfl
@[simp] theorem startTxn_port (x : Ctx) : (startTxn x s).port = s.port := rfl
@[simp] theorem startTxn_completion (x : Ctx) : (startTxn x s).completion = s.completion := rfl
@[simp] theorem startTxn_fault (x : Ctx) : (startTxn x s).fault = s.fault := rfl
@[simp] theorem startTxn_resetLine (x : Ctx) : (startTxn x s).resetLine = s.resetLine := rfl
@[simp] theorem startTxn_trace (x : Ctx) : (startTxn x s).trace = s.trace := rfl
@[simp] theorem startTxn_wrk (x : Ctx) : (startTxn x s).wrk = s.wrk := rfl
@[simp] theorem startTxn_result (x : Ctx) : (startTxn x s).result = s.result := rfl
@[simp] theorem startTxn_ph (x : Ctx) : (startTxn x s).ph =
    { s.ph with phase := .blockSize, ctx := x } := rfl

/-! ## The reset of the block -/

@[simp] theorem blockReset_cfg : (blockReset s).cfg = s.cfg := rfl
@[simp] theorem blockReset_regs : (blockReset s).regs = (nextMove s).boot.regs := rfl
@[simp] theorem blockReset_env :
    (blockReset s).env = bootEnv s.cfg (nextMove s).boot (dropMove s).env := rfl
@[simp] theorem blockReset_ph : (blockReset s).ph = PhaseRegs.reset := rfl
@[simp] theorem blockReset_ses : (blockReset s).ses = SessionRegs.reset := rfl
@[simp] theorem blockReset_wrk : (blockReset s).wrk = WorkRegs.reset := rfl
@[simp] theorem blockReset_mem : (blockReset s).mem = (spoilRead s).mem := rfl
@[simp] theorem blockReset_lens : (blockReset s).lens = s.lens := rfl
@[simp] theorem blockReset_port : (blockReset s).port = none := rfl
@[simp] theorem blockReset_completion : (blockReset s).completion = none := rfl
@[simp] theorem blockReset_result : (blockReset s).result = none := rfl
@[simp] theorem blockReset_fault : (blockReset s).fault = none := rfl
@[simp] theorem blockReset_resetLine : (blockReset s).resetLine = false := rfl
@[simp] theorem blockReset_trace : (blockReset s).trace = s.trace := rfl
@[simp] theorem bootEnv_clock (p : Params) (b : Boot) (e : Env) :
    (bootEnv p b e).clock = e.clock := rfl
@[simp] theorem bootEnv_still (p : Params) (b : Boot) (e : Env) :
    (bootEnv p b e).still = e.still := rfl
@[simp] theorem bootEnv_script (p : Params) (b : Boot) (e : Env) :
    (bootEnv p b e).script = e.script := rfl

/-- After a reset a command is in flight only where `start` reads 1. -/
theorem bootEnv_flight (p : Params) (b : Boot) (e : Env)
    (h : (bootEnv p b e).flight.isSome = true) : cmdStart p.layout b.regs.cmd = true := by
  simp only [bootEnv] at h
  split at h
  · assumption
  · cases h

/-! ## The spoilt buffer of a READ_BLOCK (93 U2) -/

@[simp] theorem spoilBuffer_cfg (b : Word) : (spoilBuffer b s).cfg = s.cfg := rfl
@[simp] theorem spoilRead_cfg : (spoilRead s).cfg = s.cfg := rfl
@[simp] theorem spoilBuffer_regs (b : Word) : (spoilBuffer b s).regs = s.regs := rfl
@[simp] theorem spoilRead_regs : (spoilRead s).regs = s.regs := rfl
@[simp] theorem spoilBuffer_ph (b : Word) : (spoilBuffer b s).ph = s.ph := rfl
@[simp] theorem spoilRead_ph : (spoilRead s).ph = s.ph := rfl
@[simp] theorem spoilBuffer_ses (b : Word) : (spoilBuffer b s).ses = s.ses := rfl
@[simp] theorem spoilRead_ses : (spoilRead s).ses = s.ses := rfl
@[simp] theorem spoilBuffer_wrk (b : Word) : (spoilBuffer b s).wrk = s.wrk := rfl
@[simp] theorem spoilRead_wrk : (spoilRead s).wrk = s.wrk := rfl
@[simp] theorem spoilBuffer_lens (b : Word) : (spoilBuffer b s).lens = s.lens := rfl
@[simp] theorem spoilRead_lens : (spoilRead s).lens = s.lens := rfl
@[simp] theorem spoilBuffer_port (b : Word) : (spoilBuffer b s).port = s.port := rfl
@[simp] theorem spoilRead_port : (spoilRead s).port = s.port := rfl
@[simp] theorem spoilBuffer_completion (b : Word) : (spoilBuffer b s).completion = s.completion := rfl
@[simp] theorem spoilRead_completion : (spoilRead s).completion = s.completion := rfl
@[simp] theorem spoilBuffer_result (b : Word) : (spoilBuffer b s).result = s.result := rfl
@[simp] theorem spoilRead_result : (spoilRead s).result = s.result := rfl
@[simp] theorem spoilBuffer_fault (b : Word) : (spoilBuffer b s).fault = s.fault := rfl
@[simp] theorem spoilRead_fault : (spoilRead s).fault = s.fault := rfl
@[simp] theorem spoilBuffer_resetLine (b : Word) : (spoilBuffer b s).resetLine = s.resetLine := rfl
@[simp] theorem spoilRead_resetLine : (spoilRead s).resetLine = s.resetLine := rfl
@[simp] theorem spoilBuffer_trace (b : Word) : (spoilBuffer b s).trace = s.trace := rfl
@[simp] theorem spoilRead_trace : (spoilRead s).trace = s.trace := rfl
@[simp] theorem spoilRead_fifo : (spoilRead s).env.fifo = s.env.fifo := by
  simp only [spoilRead]; split <;> rfl
@[simp] theorem spoilRead_clock : (spoilRead s).env.clock = s.env.clock := by
  simp only [spoilRead]; split <;> rfl

end Sys2Proof.Machine
end

