-- ==== Sys2Proof/Laws/Env.lean ====
section
/-! SUPPORT. The environment's move, said once: what it does to the bits the laws R66 to R70 speak of
(20_memory.md), for any move. -/

namespace Sys2Proof.Machine

variable {s : State}

/-- A one-bit field is 1 exactly when its bit is set. -/
theorem getField_one (v : Word) (lo : Nat) : (getField v lo 1 = 1) ↔ v.getLsbD lo = true := by
  constructor
  · intro h
    have := congrArg (fun x : BitVec 1 => x.getLsbD 0) h
    simpa [getField] using this
  · intro h
    apply BitVec.eq_of_getLsbD_eq
    intro i hi
    have : i = 0 := by omega
    subst this
    simp [getField, h]

theorem cmdStart_eq (l : Layout) (v : Word) : cmdStart l v = v.getLsbD l.cmd.start := by
  rw [Bool.eq_iff_iff]
  exact (decide_eq_true_iff).trans (getField_one v l.cmd.start)

theorem flagBits_bit (k : Nat) (hk : k < 16) : flagBits.getLsbD k = true := by
  revert hk; revert k; decide

/-- A flag stays up or rises, and never falls (20 R66). -/
theorem raiseFlags_bit (old up : Word) (k : Nat) (hk : k < 16) :
    (raiseFlags old up).getLsbD k = (old.getLsbD k || up.getLsbD k) := by
  rw [raiseFlags, BitVec.getLsbD_or, BitVec.getLsbD_and, flagBits_bit k hk, Bool.and_true]

/-- A write clears exactly the flags written as 1 (20 R66). -/
theorem ackFlags_bit (old v : Word) (k : Nat) (hk : k < 16) :
    (ackFlags old v).getLsbD k = (old.getLsbD k && !v.getLsbD k) := by
  rw [ackFlags, BitVec.getLsbD_and, BitVec.getLsbD_not, BitVec.getLsbD_and, flagBits_bit k hk,
    Bool.and_true, decide_eq_true (show k < 32 by omega), Bool.true_and]

/-- `start` can only fall (20 R68). -/
theorem cmdStart_moveCmd (p : Params) (old up : Word) :
    cmdStart p.layout (moveCmd p old up) = (cmdStart p.layout old && cmdStart p.layout up) := by
  simp only [cmdStart_eq, moveCmd]
  by_cases hk : p.layout.cmd.start < 32
  · simp [hk, fieldMask, putField]
  · simp [show 32 ≤ p.layout.cmd.start by omega]

/-- A reset bit can only fall (20 R67). -/
theorem resetBit_moveCtrl (p : Params) (old up : Word) (k : Nat)
    (hk : (resetMask p.layout).getLsbD k = true) :
    (moveCtrl p old up).getLsbD k = (old.getLsbD k && up.getLsbD k) := by
  rw [moveCtrl, BitVec.getLsbD_and, BitVec.getLsbD_or, BitVec.getLsbD_not, hk, Bool.not_true,
    Bool.and_false, Bool.or_false]

/-! ## What `envStep` leaves, field by field -/

theorem envStep_rintsts :
    (envStep s).regs.rintsts = raiseFlags s.regs.rintsts (nextMove s).rint := rfl
theorem envStep_ctrl : (envStep s).regs.ctrl = moveCtrl s.cfg s.regs.ctrl (nextMove s).ctrl := rfl
theorem envStep_cmd : (envStep s).regs.cmd = moveCmd s.cfg s.regs.cmd (nextMove s).cmd := rfl
theorem envStep_clock :
    (envStep s).env.clock = s.env.clock + passMs s.env.still (nextMove s) := rfl
theorem envStep_still : (envStep s).env.still = nextStill s.env.still (nextMove s) := rfl
theorem envStep_fifo : (envStep s).env.fifo = moveFifo (dropMove s) (nextMove s) := rfl
theorem envStep_script : (envStep s).env.script = s.env.script.tail := rfl
theorem envStep_residue :
    (envStep s).env.residue = (nextMove s).residue % s.cfg.units.count := rfl
theorem envStep_status : (envStep s).regs.status =
    moveStatus s.cfg (Env.count s.cfg (envStep s).env) (nextMove s).status := rfl
theorem envStep_flight_eq : (envStep s).env.flight =
    if accepts s.cfg (dropMove s) (nextMove s) then none else s.env.flight := rfl
theorem envStep_cardDiv : (envStep s).env.cardDiv =
    if accepts s.cfg (dropMove s) (nextMove s) && pulseInFlight (dropMove s) then s.regs.clkdiv
    else s.env.cardDiv := rfl
theorem envStep_cardEna : (envStep s).env.cardEna =
    if accepts s.cfg (dropMove s) (nextMove s) && pulseInFlight (dropMove s) then s.regs.clkena
    else s.env.cardEna := rfl

/-- The registers the environment does not own. -/
theorem envStep_own : (envStep s).regs.clkdiv = s.regs.clkdiv ∧
    (envStep s).regs.clkena = s.regs.clkena ∧ (envStep s).regs.ctype = s.regs.ctype ∧
    (envStep s).regs.blksiz = s.regs.blksiz ∧ (envStep s).regs.bytcnt = s.regs.bytcnt ∧
    (envStep s).regs.cmdarg = s.regs.cmdarg ∧ (envStep s).regs.pwren = s.regs.pwren ∧
    (envStep s).regs.cdetect = s.regs.cdetect ∧ (envStep s).regs.bmod = s.regs.bmod ∧
    (envStep s).regs.dbaddrl = s.regs.dbaddrl ∧ (envStep s).regs.dbaddru = s.regs.dbaddru :=
  ⟨rfl, rfl, rfl, rfl, rfl, rfl, rfl, rfl, rfl, rfl, rfl⟩

theorem envStep_cmdStart : cmdStart s.cfg.layout (envStep s).regs.cmd =
    (cmdStart s.cfg.layout s.regs.cmd && cmdStart s.cfg.layout (nextMove s).cmd) :=
  cmdStart_moveCmd _ _ _

/-- Time passes, or a standstill begins, or it has one move fewer left (60 R284). -/
theorem envStep_time : s.env.clock < (envStep s).env.clock ∨
    ((envStep s).env.clock = s.env.clock ∧ ∃ k, (envStep s).env.still = some k ∧
      (s.env.still = none ∨ s.env.still = some (k + 1))) := by
  rw [envStep_clock, envStep_still]
  by_cases h : passMs s.env.still (nextMove s) = 0
  · right
    rw [h, nextStill, if_pos h]
    refine ⟨rfl, _, rfl, ?_⟩
    cases hs : s.env.still with
    | none => exact .inl rfl
    | some k =>
      cases k with
      | zero => rw [hs] at h; simp [passMs] at h
      | succ k => exact .inr rfl
  · exact .inl (by omega)

/-- The command in flight stays, or it has been accepted and `start` reads 0 (20 R68). -/
theorem envStep_flight : (envStep s).env.flight = s.env.flight ∨
    ((envStep s).env.flight = none ∧ cmdStart s.cfg.layout (envStep s).regs.cmd = false) := by
  rw [envStep_flight_eq]
  split
  · rename_i h
    simp only [accepts, Bool.and_eq_true, Bool.not_eq_true'] at h
    exact .inr ⟨rfl, h.2⟩
  · exact .inl rfl

/-- The value in force changes only when a commit pulse is accepted: `start` falls (20 R68, R69). -/
theorem envStep_card :
    ((envStep s).env.cardDiv = s.env.cardDiv ∧ (envStep s).env.cardEna = s.env.cardEna) ∨
    (cmdStart s.cfg.layout s.regs.cmd = true ∧
      (∃ a, s.env.flight = some { value := s.cfg.commitClkValue, arg := a }) ∧
      cmdStart s.cfg.layout (nextMove s).cmd = false ∧
      cmdStart s.cfg.layout (envStep s).regs.cmd = false ∧ (envStep s).env.flight = none ∧
      (envStep s).env.cardDiv = s.regs.clkdiv ∧ (envStep s).env.cardEna = s.regs.clkena) := by
  rw [envStep_cardDiv, envStep_cardEna]
  split
  · rename_i h
    right
    have hf : (envStep s).env.flight = none := by
      rw [envStep_flight_eq, if_pos (Bool.and_eq_true_iff.mp h).1]
    simp only [Bool.and_eq_true, accepts, pulseInFlight, Bool.not_eq_true'] at h
    have h1 : cmdStart s.cfg.layout s.regs.cmd = true := h.1.1
    have hs : cmdStart s.cfg.layout (envStep s).regs.cmd = false := h.1.2
    refine ⟨h1, ?_, by simpa [envStep_cmdStart, h1] using hs, hs, hf, rfl, rfl⟩
    have h2 := h.2
    split at h2
    · rename_i f hf
      obtain ⟨v, a⟩ := f
      simp only [commitValue, beq_iff_eq] at h2
      exact ⟨a, hf.trans (by subst h2; rfl)⟩
    · cases h2
  · exact .inl ⟨rfl, rfl⟩

end Sys2Proof.Machine
end

