-- ==== Sys2Proof/Laws/Memory.lean ====
section
/-! SUPPORT. The laws of client memory: a read after a write, and the canonical form is kept by every memory
operation. -/

namespace Sys2Proof.Machine

theorem memory_wfFrom_mono {m : Memory} {lo hi : Nat} (h : lo ≤ hi)
    (hm : Memory.wfFrom hi m = true) : Memory.wfFrom lo m = true := by
  cases m with
  | nil => rfl
  | cons c rest =>
    obtain ⟨k, b⟩ := c
    simp only [Memory.wfFrom, Bool.and_eq_true, decide_eq_true_eq] at hm ⊢
    exact ⟨⟨by omega, hm.1.2⟩, hm.2⟩

theorem memory_wfFrom_write (m : Memory) (lo a : Nat) (b : Byte) (hlo : lo ≤ a)
    (hm : Memory.wfFrom lo m = true) : Memory.wfFrom lo (m.write a b) = true := by
  induction m generalizing lo with
  | nil =>
    by_cases hb : b = unlistedByte
    · simp [Memory.write, hb, Memory.wfFrom]
    · simp [Memory.write, hb, Memory.wfFrom, hlo]
  | cons c rest ih =>
    obtain ⟨k, d⟩ := c
    have hm' := hm
    simp only [Memory.wfFrom, Bool.and_eq_true, decide_eq_true_eq] at hm
    obtain ⟨⟨hk, hd⟩, hr⟩ := hm
    by_cases hb : b = unlistedByte <;> by_cases h1 : a < k <;> by_cases h2 : a = k <;>
      simp only [Memory.write, hb, h1, h2, if_true, if_false, Memory.wfFrom, Bool.and_eq_true,
        decide_eq_true_eq]
    all_goals try omega
    · exact ⟨⟨hk, hd⟩, hr⟩
    · subst h2; simp only [lt_irrefl, if_false]; exact memory_wfFrom_mono (by omega) hr
    · exact ⟨⟨hk, hd⟩, hb ▸ ih (k + 1) (by omega) hr⟩
    · exact ⟨⟨by omega, by simpa using hb⟩, ⟨by omega, hd⟩, hr⟩
    · subst h2
      simp only [lt_irrefl, if_false, Memory.wfFrom, Bool.and_eq_true, decide_eq_true_eq]
      exact ⟨⟨by omega, by simpa using hb⟩, hr⟩
    · exact ⟨⟨hk, hd⟩, ih (k + 1) (by omega) hr⟩

theorem memory_read_below {m : Memory} {lo a : Nat} (h : a < lo)
    (hm : Memory.wfFrom lo m = true) : m.read a = unlistedByte := by
  induction m generalizing lo with
  | nil => rfl
  | cons c rest ih =>
    obtain ⟨k, d⟩ := c
    simp only [Memory.wfFrom, Bool.and_eq_true, decide_eq_true_eq] at hm
    obtain ⟨⟨hk, -⟩, hr⟩ := hm
    simp only [Memory.read]
    rw [if_neg (by omega)]
    exact ih (lo := k + 1) (by omega) hr

/-- Every write keeps the canonical form. -/
theorem memory_wf_write (m : Memory) (a : Nat) (b : Byte) (hm : m.wf = true) :
    (m.write a b).wf = true := memory_wfFrom_write m 0 a b (Nat.zero_le _) hm

/-- A read elsewhere is unchanged by a write. -/
theorem memory_read_write_ne (m : Memory) (a a' : Nat) (b : Byte) (h : a' ≠ a) :
    (m.write a b).read a' = m.read a' := by
  induction m with
  | nil =>
    by_cases hb : b = unlistedByte <;> simp [Memory.write, hb, Memory.read, h]
  | cons c rest ih =>
    obtain ⟨k, d⟩ := c
    by_cases hb : b = unlistedByte <;> by_cases h1 : a < k <;> by_cases h2 : a = k <;>
      simp only [Memory.write, hb, h1, h2, if_true, if_false, Memory.read]
    all_goals try omega
    · subst h2; simp [h]
    · rw [← hb, ih]
    · simp [h]
    · subst h2; simp [Memory.read, h]
    · rw [ih]

/-- A read after a write to the same place gives the value written. -/
theorem memory_read_write_self (m : Memory) (a : Nat) (b : Byte) (hm : m.wf = true) :
    (m.write a b).read a = b := by
  suffices ∀ lo, Memory.wfFrom lo m = true → (m.write a b).read a = b from this 0 hm
  clear hm
  induction m with
  | nil => intro _ _; by_cases hb : b = unlistedByte <;> simp [Memory.write, hb, Memory.read]
  | cons c rest ih =>
    intro lo hm
    obtain ⟨k, d⟩ := c
    simp only [Memory.wfFrom, Bool.and_eq_true, decide_eq_true_eq] at hm
    obtain ⟨-, hr⟩ := hm
    by_cases hb : b = unlistedByte <;> by_cases h1 : a < k <;> by_cases h2 : a = k <;>
      simp only [Memory.write, hb, h1, h2, if_true, if_false, Memory.read]
    all_goals try omega
    · exact memory_read_below (lo := k + 1) (by omega) hr
    · subst h2; simp only [lt_irrefl, if_false]
      exact memory_read_below (lo := a + 1) (by omega) hr
    · rw [← hb]; exact ih (k + 1) hr
    · subst h2; simp [Memory.read]
    · exact ih (k + 1) hr

theorem memory_wf_writeLE (m : Memory) (a n : Nat) (v : DWord) (hm : m.wf = true) :
    (m.writeLE a n v).wf = true := by
  induction n generalizing m a v with
  | zero => exact hm
  | succ n ih => exact ih _ _ _ (memory_wf_write m a _ hm)

/-- A read outside the bytes written is unchanged. -/
theorem memory_read_writeLE_ne (m : Memory) (a n : Nat) (v : DWord) (a' : Nat)
    (h : a' < a ∨ a + n ≤ a') : (m.writeLE a n v).read a' = m.read a' := by
  induction n generalizing m a v with
  | zero => rfl
  | succ n ih =>
    rw [Memory.writeLE, ih _ _ _ (by omega), memory_read_write_ne _ _ _ _ (by omega)]

/-- A byte written as part of a word reads back as its bits of the word (20 R63). -/
theorem memory_read_writeLE_self (m : Memory) (a n : Nat) (v : DWord) (j : Nat) (hj : j < n)
    (hm : m.wf = true) : (m.writeLE a n v).read (a + j) = v.extractLsb' (8 * j) 8 := by
  induction n generalizing m a v j with
  | zero => omega
  | succ n ih =>
    rw [Memory.writeLE]
    cases j with
    | zero =>
      rw [memory_read_writeLE_ne _ _ _ _ _ (by omega), Nat.add_zero, memory_read_write_self _ _ _ hm]
      apply BitVec.eq_of_getLsbD_eq
      intro i hi
      simp [hi]
    | succ j =>
      rw [show a + (j + 1) = a + 1 + j by omega, ih _ _ _ _ (by omega) (memory_wf_write m a _ hm)]
      apply BitVec.eq_of_getLsbD_eq
      intro i hi
      simp [hi, show 8 + (8 * j + i) = 8 * (j + 1) + i by omega]

/-- The bits of a word read are the bytes it stands in (20 R63). -/
theorem memory_readLE_byte (m : Memory) (a n j : Nat) (hj : j < n) (hn : n ≤ 8) :
    (m.readLE a n).extractLsb' (8 * j) 8 = m.read (a + j) := by
  induction n generalizing a j with
  | zero => omega
  | succ n ih =>
    rw [Memory.readLE]
    cases j with
    | zero =>
      apply BitVec.eq_of_getLsbD_eq
      intro i hi
      simp [hi, show i < 64 by omega]
    | succ j =>
      have := ih (a + 1) j (by omega) (by omega)
      rw [show a + (j + 1) = a + 1 + j by omega, ← this]
      apply BitVec.eq_of_getLsbD_eq
      intro i hi
      simp [hi, show 8 * (j + 1) + i < 64 by omega, show ¬ 8 * (j + 1) + i < 8 by omega,
        show 8 * (j + 1) + i - 8 = 8 * j + i by omega,
        BitVec.getLsbD_of_ge (m.read a) (8 * (j + 1) + i) (by omega)]
      exact (BitVec.getLsbD_eq_getElem (by omega)).symm

theorem memory_wf_scribble (m : Memory) (a : Nat) (l : List (Option Byte)) (hm : m.wf = true) :
    (m.scribble a l).wf = true := by
  induction l generalizing m a with
  | nil => exact hm
  | cons x rest ih =>
    cases x with
    | none => exact ih _ _ hm
    | some b => exact ih _ _ (memory_wf_write m a b hm)

/-- A read outside the bytes a scribble covers is unchanged. -/
theorem memory_read_scribble_ne (m : Memory) (a : Nat) (l : List (Option Byte)) (a' : Nat)
    (h : a' < a ∨ a + l.length ≤ a') : (m.scribble a l).read a' = m.read a' := by
  induction l generalizing m a with
  | nil => rfl
  | cons x rest ih =>
    simp only [List.length_cons] at h
    cases x with
    | none => rw [Memory.scribble, ih _ _ (by omega)]
    | some b =>
      rw [Memory.scribble, ih _ _ (by omega), memory_read_write_ne _ _ _ _ (by omega)]

end Sys2Proof.Machine
end

