-- ==== Sys2Proof/Laws/PerInstr.lean ====
section
/-! SUPPORT. Facts about every instruction as syntax, one lemma per constructor. `OneRow`: an instruction's
encoding belongs to exactly one row of the opcode table. `Operands`: operand words beside the table's word stand
only where the instruction has operands (30_encoding.md R107, R114). -/

namespace Sys2Proof.Laws

/-- The rows of spec/opcode_table.json: format, mask and match value. -/
def rows : List (Format × Word × Word) :=
  [(.cmdreg, 0x803F87FF, 0x80008000), (.cmdreg, 0x803F87FF, 0x800000C2),
   (.cmdreg, 0x803F87FF, 0x80000143), (.cmdreg, 0x803F87FF, 0x80000147),
   (.cmdreg, 0x803F87FF, 0x80000148), (.cmdreg, 0x803F87FF, 0x80000049),
   (.cmdreg, 0x803F87FF, 0x80000351), (.cmdreg, 0x803F87FF, 0x80000758),
   (.cmdreg, 0x803F87FF, 0x80000069), (.cmdreg, 0x803F87FF, 0x80000373),
   (.cmdreg, 0x803F87FF, 0x80000177), (.cmdreg, 0x803F87FF, 0x80200000),
   (.clientop, 0x3, 0x0), (.clientop, 0x3, 0x1), (.clientop, 0x3, 0x2)]

/-- Whether a table word of a format is one of a row. -/
def inRow (f : Format) (w0 : Word) (r : Format × Word × Word) : Bool :=
  f == r.1 && w0 &&& r.2.1 == r.2.2

/-- The encoding of `i` belongs to exactly one row. -/
def OneRow.Statement (i : Instr) : Prop :=
  (rows.filter (inRow (encode i).format (encode i).w0)).length = 1

theorem OneRow.goIdleState : OneRow.Statement .goIdleState := by
  dsimp only [OneRow.Statement, encode]; decide
theorem OneRow.allSendCid : OneRow.Statement .allSendCid := by
  dsimp only [OneRow.Statement, encode]; decide
theorem OneRow.sendRelativeAddr : OneRow.Statement .sendRelativeAddr := by
  dsimp only [OneRow.Statement, encode]; decide
theorem OneRow.selectCard : OneRow.Statement .selectCard := by
  dsimp only [OneRow.Statement, encode]; decide
theorem OneRow.sendIfCond : OneRow.Statement .sendIfCond := by
  dsimp only [OneRow.Statement, encode]; decide
theorem OneRow.sendCsd : OneRow.Statement .sendCsd := by
  dsimp only [OneRow.Statement, encode]; decide
theorem OneRow.readSingleBlock (index buf : Word) :
    OneRow.Statement (.readSingleBlock index buf) := by
  dsimp only [OneRow.Statement, encode]; decide
theorem OneRow.writeSingleBlock (index buf : Word) :
    OneRow.Statement (.writeSingleBlock index buf) := by
  dsimp only [OneRow.Statement, encode]; decide
theorem OneRow.sdSendOpCond : OneRow.Statement .sdSendOpCond := by
  dsimp only [OneRow.Statement, encode]; decide
theorem OneRow.sendScr : OneRow.Statement .sendScr := by
  dsimp only [OneRow.Statement, encode]; decide
theorem OneRow.appCmd (arg : Word) : OneRow.Statement (.appCmd arg) := by
  dsimp only [OneRow.Statement, encode]; decide
theorem OneRow.commitClk : OneRow.Statement .commitClk := by
  dsimp only [OneRow.Statement, encode]; decide
theorem OneRow.init : OneRow.Statement .init := by
  dsimp only [OneRow.Statement, encode]; decide
theorem OneRow.readBlock (index : Word) (buf : ClientBuffer) :
    OneRow.Statement (.readBlock index buf) := by
  dsimp only [OneRow.Statement, encode]; decide
theorem OneRow.writeBlock (index : Word) (buf : ClientBuffer) :
    OneRow.Statement (.writeBlock index buf) := by
  dsimp only [OneRow.Statement, encode]; decide

/-- The operand words an instruction has. -/
def operandWords : Instr → Word × Word × Word
  | .goIdleState => (0, 0, 0)
  | .allSendCid => (0, 0, 0)
  | .sendRelativeAddr => (0, 0, 0)
  | .selectCard => (0, 0, 0)
  | .sendIfCond => (0, 0, 0)
  | .sendCsd => (0, 0, 0)
  | .readSingleBlock index buf => (index, buf, 0)
  | .writeSingleBlock index buf => (index, buf, 0)
  | .sdSendOpCond => (0, 0, 0)
  | .sendScr => (0, 0, 0)
  | .appCmd arg => (arg, 0, 0)
  | .commitClk => (0, 0, 0)
  | .init => (0, 0, 0)
  | .readBlock index buf => (index, buf.handle, buf.len)
  | .writeBlock index buf => (index, buf.handle, buf.len)

/-- The encoding of `i` carries exactly its operands. -/
def Operands.Statement (i : Instr) : Prop :=
  ((encode i).w1, (encode i).w2, (encode i).w3) = operandWords i

theorem Operands.goIdleState : Operands.Statement .goIdleState := rfl
theorem Operands.allSendCid : Operands.Statement .allSendCid := rfl
theorem Operands.sendRelativeAddr : Operands.Statement .sendRelativeAddr := rfl
theorem Operands.selectCard : Operands.Statement .selectCard := rfl
theorem Operands.sendIfCond : Operands.Statement .sendIfCond := rfl
theorem Operands.sendCsd : Operands.Statement .sendCsd := rfl
theorem Operands.readSingleBlock (index buf : Word) :
    Operands.Statement (.readSingleBlock index buf) := rfl
theorem Operands.writeSingleBlock (index buf : Word) :
    Operands.Statement (.writeSingleBlock index buf) := rfl
theorem Operands.sdSendOpCond : Operands.Statement .sdSendOpCond := rfl
theorem Operands.sendScr : Operands.Statement .sendScr := rfl
theorem Operands.appCmd (arg : Word) : Operands.Statement (.appCmd arg) := rfl
theorem Operands.commitClk : Operands.Statement .commitClk := rfl
theorem Operands.init : Operands.Statement .init := rfl
theorem Operands.readBlock (index : Word) (buf : ClientBuffer) :
    Operands.Statement (.readBlock index buf) := rfl
theorem Operands.writeBlock (index : Word) (buf : ClientBuffer) :
    Operands.Statement (.writeBlock index buf) := rfl

end Sys2Proof.Laws
end

