-- ==== Sys2Proof/Laws/Step.lean ====
section
/-! SUPPORT. What a step can do, said once: a reset, waiting, an accepted operation, a rejected one, or the
next transaction or transition of the operation in progress. -/

namespace Sys2Proof.Machine

variable {s t : State}

theorem isIdle_iff : s.isIdle = true ↔ s.ph.phase = .idle ∧ s.ph.busy = false := by
  simp [State.isIdle]

/-- A block in service with nothing presented and nothing running waits. -/
theorem step_waits (h : s.inService) (hi : s.isIdle = true) (hp : s.port = none) :
    step s = .next s := by
  obtain ⟨h1, h2, h3⟩ := h
  simp [step, h1, h2, h3, hi, hp]

/-- A block in service runs the operation presented to it when it is idle. -/
theorem step_runs {o : OpWords} {i : Instr} (h : s.inService) (hi : s.isIdle = true)
    (hp : s.port = some o) (hd : decode o = .ok i) : step s = exec i (takeRequest s) := by
  obtain ⟨h1, h2, h3⟩ := h
  simp [step, h1, h2, h3, hi, hp, hd]

/-- An operation in progress goes on. -/
theorem step_running (h : s.running) : step s = advance s := by
  obtain ⟨⟨h1, h2, h3⟩, hp, hi⟩ := h
  have : s.isIdle = false := by
    by_contra hc
    exact hi (isIdle_iff.mp (by simpa using hc)).1
  simp [step, h1, h2, h3, this, hp]

/-- Everything a step that answers a next state can have done. -/
theorem step_next_cases (h : step s = .next t) :
    (s.resetLine = true ∧ t = blockReset s) ∨
    (s.inService ∧ s.isIdle = true ∧ s.port = none ∧ t = s) ∨
    (s.inService ∧ s.isIdle = true ∧
      ∃ o i, s.port = some o ∧ decode o = .ok i ∧ exec i (takeRequest s) = .next t) ∨
    (s.inService ∧ s.isIdle = true ∧ ∃ o f, s.port = some o ∧ (∃ r, decode o = .error r) ∧
      t = raise f (takeRequest s)) ∨
    (s.inService ∧ s.isIdle = false ∧ s.port = none ∧ advance s = .next t) := by
  unfold step at h
  split at h
  · rename_i hr
    left
    exact ⟨hr, by simpa using h.symm⟩
  · rename_i hr
    right
    split at h
    · simp at h
    · rename_i hw
      have hw' : s.cfg.wf = true := by simpa using hw
      have hr' : s.resetLine = false := by simpa using hr
      split at h
      · simp at h
      · rename_i hf
        have hs : s.inService := ⟨hr', hw', hf⟩
        split at h
        · rename_i hi
          split at h
          · rename_i hp
            left
            exact ⟨hs, hi, hp, by simpa using h.symm⟩
          · rename_i o hp
            split at h
            · rename_i i hd
              right; left
              exact ⟨hs, hi, o, i, hp, hd, h⟩
            · rename_i r hd
              right; right; left
              refine ⟨hs, hi, o, ?_⟩
              cases r with
              | unsupported n =>
                simp only [rejectRequest] at h
                split at h
                · rename_i f _
                  exact ⟨f, hp, ⟨_, hd⟩, by simpa using h.symm⟩
                · simp at h
              | notACommand => simp [rejectRequest] at h
              | reservedOperation => simp [rejectRequest] at h
        · rename_i hi
          have hi' : s.isIdle = false := by simpa using hi
          split at h
          · simp at h
          · rename_i hp
            right; right; right
            exact ⟨hs, hi', hp, h⟩

end Sys2Proof.Machine
end

