-- ==== Sys2Proof/Laws/Ports.lean ====
section
/-! SUPPORT. The transaction a step makes, said once: `portState s` is the state right after it, and every
step agrees with it in the registers, the environment, the trace and the parameters. -/

namespace Sys2Proof.Machine

variable {s t : State}

/-- Two states that agree in all that a port transaction can change. -/
structure PortsAgree (t u : State) : Prop where
  cfg_eq : t.cfg = u.cfg
  regs_eq : t.regs = u.regs
  env_eq : t.env = u.env
  lens_eq : t.lens = u.lens
  trace_eq : t.trace = u.trace

/-- The register and value of the store the phase makes. -/
def phaseStore (s : State) : Option (Reg × Word) :=
  match s.ph.phase with
  | .writeArg => some (.cmdarg, s.wrk.arg)
  | .writeCmd => some (.cmd, s.wrk.cmdval)
  | .ackWrite => some (.rintsts, s.wrk.snap)
  | .pulseWrite => some (.cmd, commitValue s.cfg)
  | .resetWrite f => some (.ctrl, s.wrk.held ||| f.mask s.cfg.layout)
  | .clockOff => some (.clkena, 0)
  | .clockDivide => some (.clkdiv, encClkdiv s.cfg.layout { divider := s.cfg.initDiv })
  | .clockOn => some (.clkena, encClkena s.cfg.layout { cclkEnable := 1 })
  | .busWidth => some (.ctype, encCtype s.cfg.layout { width4 := 0, width8 := 0 })
  | .blockSize =>
    some (.blksiz, encBlksiz s.cfg.layout { blockSize := BitVec.ofNat 16 (txnBytes s.ph.ctx) })
  | .byteCount =>
    some (.bytcnt, encBytcnt s.cfg.layout { byteCount := BitVec.ofNat 32 (txnBytes s.ph.ctx) })
  | .idle | .wait _ _ | .pumpStart | .pumpSnap | .pumpCount | .pumpMove | .pumpTime | .ackRead
  | .readResp0 | .readResp1 | .readResp2 | .readResp3 | .classify | .resetRead _ | .sleep
  | .returned => none

/-- The register of the load the phase makes. -/
def phaseLoad (s : State) : Option Reg :=
  match s.ph.phase with
  | .wait w .poll => some w.reg
  | .pumpSnap => some .rintsts
  | .pumpCount => some .status
  | .ackRead => some .rintsts
  | .readResp0 => some .resp0
  | .readResp1 => some .resp1
  | .readResp2 => some .resp2
  | .readResp3 => some .resp3
  | .resetRead _ => some .ctrl
  | .idle | .wait _ .start | .wait _ .check | .writeArg | .writeCmd | .pumpStart | .pumpMove
  | .pumpTime | .ackWrite | .classify | .pulseWrite | .resetWrite _ | .clockOff | .clockDivide
  | .clockOn | .busWidth | .sleep | .blockSize | .byteCount | .returned => none

/-- Everything the ports can show of a step of an operation in progress. -/
inductive PortEffect (s t : State) : Prop
  /-- No transaction. -/
  | quiet (h : PortsAgree t s)
  /-- No transaction; a free choice of the environment has been used (93 U2). -/
  | chosen (h : PortsAgree t (dropMove s))
  | load (X : Reg) (hX : phaseLoad s = some X) (h : PortsAgree t (readReg X s))
  | loadChosen (X : Reg) (hX : phaseLoad s = some X) (h : PortsAgree t (dropMove (readReg X s)))
  | store (X : Reg) (v : Word) (hX : phaseStore s = some (X, v)) (h : PortsAgree t (writeReg X v s))
  | drain (hp : s.ph.phase = .pumpMove) (h : PortsAgree t (fifoRead s))
  | fill (v : DWord) (hp : s.ph.phase = .pumpMove) (h : PortsAgree t (fifoWrite v s))
  | clock (h : PortsAgree t (readClock s))
  | delay (hp : s.ph.phase = .sleep) (h : PortsAgree t (sleepFor s.cfg.ocrDelay s))
  /-- The block is reset: no transaction, and the controller holds anything (10 R49). -/
  | reboot (hr : s.resetLine = true) (h : t = blockReset s)

/-! ## The parts of the machine that make no transaction -/

theorem agree_refl : PortsAgree s s := ⟨rfl, rfl, rfl, rfl, rfl⟩

theorem agree_enterStep5 : PortsAgree (enterStep5 s) s := by
  unfold enterStep5; split <;> exact ⟨rfl, rfl, rfl, rfl, rfl⟩

theorem agree_enterStep4 : PortsAgree (enterStep4 s) s := by
  unfold enterStep4; split
  · exact ⟨rfl, rfl, rfl, rfl, rfl⟩
  · exact agree_enterStep5

theorem agree_pumpExit : PortsAgree (pumpExit s) s := by
  unfold pumpExit; split <;> exact ⟨rfl, rfl, rfl, rfl, rfl⟩

theorem agree_pumpMore : PortsAgree (pumpMore s) s := by
  unfold pumpMore; split
  · exact agree_pumpExit
  · exact ⟨rfl, rfl, rfl, rfl, rfl⟩
  · split
    · exact ⟨rfl, rfl, rfl, rfl, rfl⟩
    · exact agree_pumpExit

theorem agree_spoilRead : PortsAgree (spoilRead s) s ∨ PortsAgree (spoilRead s) (dropMove s) := by
  by_cases h : s.ph.ctx = .readBlock
  · exact .inr ⟨rfl, rfl, by simp [spoilRead, h, spoilBuffer], rfl, rfl⟩
  · exact .inl ⟨rfl, rfl, by simp [spoilRead, h], rfl, rfl⟩

theorem agree_pumpCounted (n : Nat) :
    PortsAgree (pumpCounted n s) s ∨ PortsAgree (pumpCounted n s) (dropMove s) := by
  unfold pumpCounted; split
  · exact .inl agree_pumpExit
  · split
    · split
      · exact (agree_spoilRead (s := s)).imp (fun h => ⟨h.1, h.2, h.3, h.4, h.5⟩)
          (fun h => ⟨h.1, h.2, h.3, h.4, h.5⟩)
      · exact .inl ⟨rfl, rfl, rfl, rfl, rfl⟩
    · exact .inl agree_pumpExit
  · split
    · exact .inl ⟨rfl, rfl, rfl, rfl, rfl⟩
    · exact .inl agree_pumpExit

theorem agree_waitMet (w : WaitFor) : PortsAgree (waitMet w s) s := by
  unfold waitMet; split
  · split <;> exact ⟨rfl, rfl, rfl, rfl, rfl⟩
  · exact ⟨rfl, rfl, rfl, rfl, rfl⟩
  · exact agree_enterStep4
  · exact agree_enterStep5
  · exact ⟨rfl, rfl, rfl, rfl, rfl⟩
  · exact ⟨rfl, rfl, rfl, rfl, rfl⟩

theorem agree_waitExpired (w : WaitFor) : PortsAgree (waitExpired w s) s := by
  cases w <;> exact ⟨rfl, rfl, rfl, rfl, rfl⟩

theorem agree_ocrRetry : PortsAgree (ocrRetry s) s := by
  unfold ocrRetry; split <;> exact ⟨rfl, rfl, rfl, rfl, rfl⟩

theorem agree_startData : PortsAgree (startData s) s := by
  unfold startData; split <;> exact ⟨rfl, rfl, rfl, rfl, rfl⟩

theorem PortsAgree.trans {u : State} (h : PortsAgree t s) (k : PortsAgree s u) : PortsAgree t u :=
  ⟨h.1.trans k.1, h.2.trans k.2, h.3.trans k.3, h.4.trans k.4, h.5.trans k.5⟩

/-- What follows a returned exchange, pulse or reset request makes no transaction. -/
theorem agree_resume : PortsAgree (resume s) s ∨ PortsAgree (resume s) (dropMove s) := by
  unfold resume
  split
  case h_19 =>
    unfold afterReadBlock
    split
    · exact .inl ⟨rfl, rfl, rfl, rfl, rfl⟩
    · exact .inr ⟨rfl, rfl, rfl, rfl, rfl⟩
    · exact .inr ⟨rfl, rfl, rfl, rfl, rfl⟩
  case h_11 =>
    left; unfold afterOcrApp
    split
    · exact ⟨rfl, rfl, rfl, rfl, rfl⟩
    · exact agree_ocrRetry
    · exact agree_ocrRetry
  case h_12 =>
    left; unfold afterOcrCond
    split
    · split
      · exact ⟨rfl, rfl, rfl, rfl, rfl⟩
      · exact agree_ocrRetry
    · exact agree_ocrRetry
    · exact agree_ocrRetry
  case h_5 => left; unfold afterPulseOff; split <;> exact ⟨rfl, rfl, rfl, rfl, rfl⟩
  case h_6 => left; unfold afterPulseOn; split <;> exact ⟨rfl, rfl, rfl, rfl, rfl⟩
  case h_7 => left; unfold afterFifoReset; split <;> exact ⟨rfl, rfl, rfl, rfl, rfl⟩
  case h_8 => left; unfold afterDmaReset; split <;> exact ⟨rfl, rfl, rfl, rfl, rfl⟩
  case h_9 => left; unfold afterGoIdle; split <;> exact ⟨rfl, rfl, rfl, rfl, rfl⟩
  case h_13 => left; unfold afterIdentify; split <;> exact ⟨rfl, rfl, rfl, rfl, rfl⟩
  case h_14 => left; unfold afterAddress; split <;> exact ⟨rfl, rfl, rfl, rfl, rfl⟩
  case h_15 => left; unfold afterCsd; split <;> exact ⟨rfl, rfl, rfl, rfl, rfl⟩
  case h_16 => left; unfold afterSelect; split <;> exact ⟨rfl, rfl, rfl, rfl, rfl⟩
  case h_17 => left; unfold afterScrApp; split <;> exact ⟨rfl, rfl, rfl, rfl, rfl⟩
  case h_20 => left; unfold afterWriteBlock; split <;> exact ⟨rfl, rfl, rfl, rfl, rfl⟩
  all_goals exact .inl ⟨rfl, rfl, rfl, rfl, rfl⟩

/-- Every step of an operation in progress has one of the effects above on the ports. -/
theorem advance_ports (h : advance s = .next t) : PortEffect s t := by
  unfold advance at h
  split at h
  case h_2 w stage hp =>
    cases h
    cases stage
    · exact .clock ⟨rfl, rfl, rfl, rfl, rfl⟩
    · refine .load w.reg (by simp [phaseLoad, hp]) ?_
      simp only [waitStep, waitPoll]
      split
      · exact (agree_waitMet w).trans ⟨rfl, rfl, rfl, rfl, rfl⟩
      · exact ⟨rfl, rfl, rfl, rfl, rfl⟩
    · refine .clock ?_
      simp only [waitStep, waitCheck]
      split
      · exact (agree_waitExpired w).trans ⟨rfl, rfl, rfl, rfl, rfl⟩
      · exact ⟨rfl, rfl, rfl, rfl, rfl⟩
  case h_5 hp =>
    unfold pumpBegin at h
    split at h
    · cases h; exact .clock ⟨rfl, rfl, rfl, rfl, rfl⟩
    · cases h
  case h_6 hp =>
    cases h
    refine .load .rintsts (by simp [phaseLoad, hp]) ?_
    simp only [pumpSnapshot]
    split
    · exact agree_pumpMore.trans ⟨rfl, rfl, rfl, rfl, rfl⟩
    · exact agree_pumpExit.trans ⟨rfl, rfl, rfl, rfl, rfl⟩
  case h_7 hp =>
    cases h
    exact (agree_pumpCounted _).elim (fun h => .load .status (by simp [phaseLoad, hp]) h)
      (fun h => .loadChosen .status (by simp [phaseLoad, hp]) h)
  case h_8 hp =>
    cases h
    unfold pumpMove
    split
    · exact .quiet agree_pumpExit
    · exact .drain hp (agree_pumpMore.trans ⟨rfl, rfl, rfl, rfl, rfl⟩)
    · exact .fill _ hp (agree_pumpMore.trans ⟨rfl, rfl, rfl, rfl, rfl⟩)
  case h_9 hp =>
    cases h
    refine .clock ?_
    unfold pumpDeadline
    split <;> exact ⟨rfl, rfl, rfl, rfl, rfl⟩
  case h_24 hp => cases h; exact .delay hp ⟨rfl, rfl, rfl, rfl, rfl⟩
  case h_26 hp =>
    cases h
    exact .store _ _ (by simp [phaseStore, hp])
      (agree_startData.trans ⟨rfl, rfl, rfl, rfl, rfl⟩)
  case h_27 =>
    cases h
    exact agree_resume.elim .quiet .chosen
  case h_1 => cases h; exact .quiet agree_refl
  case h_16 => cases h; exact .quiet ⟨rfl, rfl, rfl, rfl, rfl⟩
  all_goals rename_i hp; cases h
  case h_3 => exact .store _ _ (by simp [phaseStore, hp]) ⟨rfl, rfl, rfl, rfl, rfl⟩
  case h_4 => exact .store _ _ (by simp [phaseStore, hp]) ⟨rfl, rfl, rfl, rfl, rfl⟩
  case h_11 => exact .store _ _ (by simp [phaseStore, hp]) ⟨rfl, rfl, rfl, rfl, rfl⟩
  case h_17 => exact .store _ _ (by simp [phaseStore, hp]) ⟨rfl, rfl, rfl, rfl, rfl⟩
  case h_19 => exact .store _ _ (by simp [phaseStore, hp]) ⟨rfl, rfl, rfl, rfl, rfl⟩
  case h_20 => exact .store _ _ (by simp [phaseStore, hp]) ⟨rfl, rfl, rfl, rfl, rfl⟩
  case h_21 => exact .store _ _ (by simp [phaseStore, hp]) ⟨rfl, rfl, rfl, rfl, rfl⟩
  case h_22 => exact .store _ _ (by simp [phaseStore, hp]) ⟨rfl, rfl, rfl, rfl, rfl⟩
  case h_23 => exact .store _ _ (by simp [phaseStore, hp]) ⟨rfl, rfl, rfl, rfl, rfl⟩
  case h_25 => exact .store _ _ (by simp [phaseStore, hp]) ⟨rfl, rfl, rfl, rfl, rfl⟩
  all_goals exact .load _ (by simp [phaseLoad, hp]) ⟨rfl, rfl, rfl, rfl, rfl⟩

theorem accept_next {u : State} (h : accept s u = .next t) : s.isIdle = true ∧ t = u := by
  unfold accept at h
  split at h
  · exact ⟨‹_›, by simpa using h.symm⟩
  · cases h

/-- An accepted operation makes no transaction. -/
theorem exec_ports {i : Instr} (h : exec i s = .next t) :
    PortsAgree t s ∨ PortsAgree t (dropMove s) := by
  cases i with
  | init =>
    obtain ⟨-, rfl⟩ := accept_next h
    left; unfold beginInit; split <;> exact ⟨rfl, rfl, rfl, rfl, rfl⟩
  | readBlock index buf =>
    obtain ⟨-, rfl⟩ := accept_next h
    unfold beginReadBlock
    split
    · exact .inl ⟨rfl, rfl, rfl, rfl, rfl⟩
    · split
      · exact .inr ⟨rfl, rfl, rfl, rfl, rfl⟩
      · exact .inl ⟨rfl, rfl, rfl, rfl, rfl⟩
  | writeBlock index buf =>
    obtain ⟨-, rfl⟩ := accept_next h
    left; unfold beginWriteBlock
    split
    · exact ⟨rfl, rfl, rfl, rfl, rfl⟩
    · split <;> exact ⟨rfl, rfl, rfl, rfl, rfl⟩
  | goIdleState => obtain ⟨-, rfl⟩ := accept_next h; exact .inl ⟨rfl, rfl, rfl, rfl, rfl⟩
  | allSendCid => obtain ⟨-, rfl⟩ := accept_next h; exact .inl ⟨rfl, rfl, rfl, rfl, rfl⟩
  | sendRelativeAddr => obtain ⟨-, rfl⟩ := accept_next h; exact .inl ⟨rfl, rfl, rfl, rfl, rfl⟩
  | selectCard => obtain ⟨-, rfl⟩ := accept_next h; exact .inl ⟨rfl, rfl, rfl, rfl, rfl⟩
  | sendIfCond => obtain ⟨-, rfl⟩ := accept_next h; exact .inl ⟨rfl, rfl, rfl, rfl, rfl⟩
  | sendCsd => obtain ⟨-, rfl⟩ := accept_next h; exact .inl ⟨rfl, rfl, rfl, rfl, rfl⟩
  | readSingleBlock index buf =>
    obtain ⟨-, rfl⟩ := accept_next h
    left; unfold beginBlockRow; split <;> exact ⟨rfl, rfl, rfl, rfl, rfl⟩
  | writeSingleBlock index buf =>
    obtain ⟨-, rfl⟩ := accept_next h
    left; unfold beginBlockRow; split <;> exact ⟨rfl, rfl, rfl, rfl, rfl⟩
  | sdSendOpCond => obtain ⟨-, rfl⟩ := accept_next h; exact .inl ⟨rfl, rfl, rfl, rfl, rfl⟩
  | sendScr => obtain ⟨-, rfl⟩ := accept_next h; exact .inl ⟨rfl, rfl, rfl, rfl, rfl⟩
  | appCmd arg => obtain ⟨-, rfl⟩ := accept_next h; exact .inl ⟨rfl, rfl, rfl, rfl, rfl⟩
  | commitClk => obtain ⟨-, rfl⟩ := accept_next h; exact .inl ⟨rfl, rfl, rfl, rfl, rfl⟩

/-- Every step that answers a next state has one of the effects above on the ports. -/
theorem step_ports (h : step s = .next t) : PortEffect s t := by
  obtain ⟨hr, rfl⟩ | ⟨-, -, -, rfl⟩ | ⟨-, -, o, i, -, -, h⟩ | ⟨-, -, o, f, -, -, rfl⟩ | ⟨-, -, -, h⟩ :=
    step_next_cases h
  · exact .reboot hr rfl
  · exact .quiet agree_refl
  · rcases exec_ports h with h | h
    · exact .quiet (h.trans ⟨rfl, rfl, rfl, rfl, rfl⟩)
    · exact .chosen (h.trans ⟨rfl, rfl, rfl, rfl, rfl⟩)
  · exact .quiet ⟨rfl, rfl, rfl, rfl, rfl⟩
  · exact advance_ports h

end Sys2Proof.Machine
end

