-- ==== Sys2Proof/Laws/Stores.lean ====
section
/-! SUPPORT. What a step does to client memory (20_memory.md R79), and runs of several steps. -/

namespace Sys2Proof.Machine

variable {s t : State}

/-- What a step of an operation in progress does to client memory: a word of the read pump, the free bytes of a
READ_BLOCK that failed or overran, or nothing (20 R79, 93 U2). -/
theorem advance_memory (ha : advance s = .next t) : t.mem = s.mem ∨
    (s.ph.phase = .pumpMove ∧ ∃ h n, s.wrk.td = .read (.client h) n ∧
      t.mem = s.mem.writeLE (bufferWord s.cfg h s.wrk.cursor) s.cfg.w.bytes (fifoVal s)) ∨
    (s.ph.phase = .returned ∧ s.ph.ctx = .readBlock ∧ exchangeFailed s = true ∧
      t.mem = s.mem.scribble (bufferBase s.wrk.buf)
        ((nextMove s).scribble.take blockBytes)) ∨
    (overruns s ∧ s.ph.ctx = .readBlock ∧ t.mem = s.mem.scribble (bufferBase s.wrk.buf)
      ((nextMove (readReg .status s)).scribble.take blockBytes)) := by
  unfold advance at ha
  split at ha
  case h_27 hp =>
    cases ha
    unfold resume; split
    case h_19 hc => 
      unfold afterReadBlock; split
      · exact .inl rfl
      · rename_i h; right; right; left; exact ⟨hp, hc, by simp [exchangeFailed, h], rfl⟩
      · rename_i h; right; right; left; exact ⟨hp, hc, by simp [exchangeFailed, h], rfl⟩
    all_goals left
    all_goals try simp only [afterPulseOff, afterPulseOn, afterFifoReset, afterDmaReset, afterGoIdle,
      afterVoltage, afterOcrApp, afterOcrCond, afterIdentify, afterAddress, afterCsd, afterSelect, afterScrApp, afterScr, afterWriteBlock, ocrRetry]
    all_goals (repeat' split) 
    all_goals rfl
  case h_2 w st hw =>
    cases ha
    left
    cases st <;> simp only [waitStep, waitBegin, waitPoll, waitCheck] <;> (repeat' split) <;> try rfl
    · cases w <;> simp only [waitMet, enterStep4, enterStep5] <;> (repeat' split) <;> rfl
    · cases w <;> rfl
  case h_5 => unfold pumpBegin at ha; split at ha <;> cases ha; exact .inl rfl
  case h_26 => cases ha; left; simp only [programCount, startData]; split <;> rfl
  case h_8 hp =>
    cases ha
    simp only [pumpMove, pumpMore, pumpExit]
    split
    · left; split <;> rfl
    · rename_i dst n htd
      cases dst with
      | scr => left; (repeat' split) <;> rfl
      | client b => right; left; refine ⟨hp, b, n, htd, ?_⟩; (repeat' split) <;> rfl
    · left; (repeat' split) <;> rfl
  case h_7 hp =>
    cases ha
    simp only [pumpCount, pumpCounted, pumpExit]
    split
    · left; split <;> rfl
    · rename_i dst n htd
      split
      · rename_i hl
        split
        · rename_i hn
          by_cases hc : s.ph.ctx = .readBlock
          · right; right; right
            exact ⟨⟨hp, dst, n, htd, hn, hl⟩, hc, by simp [spoilRead, hc]; rfl⟩
          · left; simp [spoilRead, hc]
        · left; rfl
      · left; split <;> rfl
    · left; (repeat' split) <;> rfl
  all_goals cases ha
  all_goals left
  all_goals first | rfl | skip
  all_goals simp only [pumpSnapshot, pumpMore, pumpExit, pumpDeadline] 
  all_goals (repeat' split) <;> rfl

/-- What accepting an operation does to client memory: only a READ_BLOCK stopped at the usable gate may change its
buffer (93 U2). -/
theorem exec_memory {i : Instr} (he : exec i s = .next t) : t.mem = s.mem ∨
    (s.isIdle = true ∧ s.ses.usable = false ∧ ∃ index buf, i = .readBlock index buf ∧
      buf.len.toNat = blockBytes ∧ ∃ l, l.length ≤ 512 ∧
        t.mem = s.mem.scribble (bufferBase buf.handle) l) := by
  cases i <;> obtain ⟨hi, rfl⟩ := accept_next he <;> first | exact .inl rfl | skip
  · left; unfold beginBlockRow; split <;> rfl
  · left; unfold beginBlockRow; split <;> rfl
  · left; unfold beginInit; split <;> rfl
  · rename_i index buf; unfold beginReadBlock; (repeat' split)
    · left; rfl
    · rename_i hl h; right; exact ⟨hi, h, index, buf, rfl, not_not.mp hl, _, by simp [blockBytes], rfl⟩
    · left; rfl
  · left; unfold beginWriteBlock; (repeat' split) <;> rfl

/-- One step of a run. -/
theorem run_succ {k : Nat} (h : step s = .next t) :
    Host.Core.run core (k + 1) s = Host.Core.run core k t := by
  simp [Host.Core.run, core, h]

theorem run_zero : Host.Core.run core 0 s = .next s := rfl

end Sys2Proof.Machine
end

