-- ==== Sys2Proof/Tests/Slice0.lean ====
section
/-! SUPPORT. Tests on fixed values, each from the spec (95_test_vectors.md where a vector is named), and for every
obligation with hypotheses a theorem that shows them met. -/

namespace Sys2Proof.Tests

open Sys2Proof.Machine

/-! ## Helpers -/

/-- A block at a phase, right after reset in everything else. -/
def phaseAt (p : Phase) (c : Ctx) (q : PState) : State :=
  { State.reset with
    ph := { ps := q, busy := c != .bare, xstep := p.xstep, phase := p, ctx := c } }

/-- The block after reset with a request presented. -/
def asked (f : Format) (w0 w1 w2 w3 : Word) : State :=
  { State.reset with port := some ⟨f, w0, w1, w2, w3⟩ }

/-- The next moves of the environment. -/
def withMoves (ms : List EnvMove) (s : State) : State :=
  { s with env := { s.env with script := ms } }

/-- A check of the state after `k` steps. -/
def after (k : Nat) (s : State) (check : State → Bool) : Bool :=
  match Host.Core.run core k s with
  | .next t => check t
  | .fault _ => false
  | .refused _ => false

/-- A check of the state an instruction answers. -/
def given (i : Instr) (s : State) (check : State → Bool) : Bool :=
  match exec i s with
  | .next t => check t
  | .fault _ => false
  | .refused _ => false

/-- `n` prompt moves: `start` and the reset bits fall, no flag rises. -/
def prompt (n : Nat) : List EnvMove := List.replicate n default

theorem default_wf : Params.default.wf = true := by decide

theorem phaseAt_running (p : Phase) (c : Ctx) (q : PState) (h : p ≠ .idle) :
    (phaseAt p c q).running := ⟨⟨rfl, default_wf, rfl⟩, rfl, h⟩

/-! ## Well-formedness: an ill-formed term for each check -/

theorem test_wf_unaligned_base : { Params.default with base := 2 }.wf = false := by decide
theorem test_wf_unaligned_data :
    { Params.default with off := { Offsets.default with data := 0x204 } }.wf = false := by decide
theorem test_wf_equal_offsets :
    { Params.default with off := { Offsets.default with cmd := 0x028 } }.wf = false := by decide
theorem test_wf_layout_overlap :
    { Params.default with layout := { Layout.default with
      cmd := { Layout.default.cmd with index := 1 } } }.wf = false := by decide
theorem test_wf_layout_out_of_range :
    { Params.default with layout := { Layout.default with bytcntByteCount := 1 } }.wf = false := by
  decide
theorem test_wf_flag_in_upper_half :
    { Params.default with layout := { Layout.default with
      rintsts := { Layout.default.rintsts with endBitError := 16 } } }.wf = false := by decide
theorem test_wf_extra_bits_overlap :
    { Params.default with cmdExtraBits := 0x40 }.wf = false := by decide
theorem test_wf_commit_without_start :
    { Params.default with commitClkValue := 0x00202000 }.wf = false := by decide
theorem test_wf_commit_with_response :
    { Params.default with commitClkValue := 0x80202040 }.wf = false := by decide
theorem test_wf_commit_with_data :
    { Params.default with commitClkValue := 0x80202200 }.wf = false := by decide
theorem test_wf_initDiv_zero : { Params.default with initDiv := 0 }.wf = false := by decide
theorem test_wf_retry_zero : { Params.default with ocrRetryMax := 0 }.wf = false := by decide
theorem test_wf_ocr_bit : { Params.default with ocrReadyBit := 32 }.wf = false := by decide
theorem test_wf_ccs_bit : { Params.default with ocrCcsBit := 32 }.wf = false := by decide

/-! ## Decoding: a word written out for every constructor (30 R116, R114) -/

theorem test_decode_goIdleState : decodeTableWord 32 0x80008000 = some .goIdleState := by decide
theorem test_decode_allSendCid : decodeTableWord 32 0x800000C2 = some .allSendCid := by decide
theorem test_decode_sendRelativeAddr :
    decodeTableWord 32 0x80000143 = some .sendRelativeAddr := by decide
theorem test_decode_selectCard : decodeTableWord 32 0x80000147 = some .selectCard := by decide
theorem test_decode_sendIfCond : decodeTableWord 32 0x80000148 = some .sendIfCond := by decide
theorem test_decode_sendCsd : decodeTableWord 32 0x80000049 = some .sendCsd := by decide
theorem test_decode_readSingleBlock :
    decode ⟨.cmdreg, 0x80000351, 5, 2, 0⟩ = .ok (.readSingleBlock 5 2) := rfl
theorem test_decode_writeSingleBlock :
    decode ⟨.cmdreg, 0x80000758, 5, 2, 0⟩ = .ok (.writeSingleBlock 5 2) := rfl
theorem test_decode_sdSendOpCond : decodeTableWord 32 0x80000069 = some .sdSendOpCond := by decide
theorem test_decode_sendScr : decodeTableWord 32 0x80000373 = some .sendScr := by decide
theorem test_decode_appCmd :
    decode ⟨.cmdreg, 0x80000177, 0xAAAA0000, 0, 0⟩ = .ok (.appCmd 0xAAAA0000) := rfl
theorem test_decode_commitClk : decodeTableWord 32 0x80202000 = some .commitClk := by decide
theorem test_decode_init : decodeTableWord 8 0 = some .init := by decide
theorem test_decode_readBlock :
    decode ⟨.clientop, 1, 0xFFFFFFFF, 3, 512⟩ = .ok (.readBlock 0xFFFFFFFF ⟨3, 512⟩) := rfl
theorem test_decode_writeBlock :
    decode ⟨.clientop, 2, 5, 3, 511⟩ = .ok (.writeBlock 5 ⟨3, 511⟩) := rfl
/-- 30 R114: code 3 is reserved. -/
theorem test_decode_code3 : decode ⟨.clientop, 3, 0, 0, 0⟩ = .error .reservedOperation := rfl
/-- V41-13: opcode 18. -/
theorem test_decode_opcode18 : decode ⟨.cmdreg, 0x80000152, 0, 0, 0⟩ = .error (.unsupported 18) := rfl

/-! ## Typed views, encoder, decoders -/

/-- V40-2, V40-3, V40-4, V40-5. -/
theorem test_view_ctrl : encCtrl Layout.default (decCtrl Layout.default 0xFFFFFFFF) = 0x17 := by decide
theorem test_view_cmd : decCmd Layout.default 0x80000758 =
    { start := 1, cardIndex := 0, sendInit := 0, direction := 1, dataExpected := 1, checkCrc := 1
      responseLength := 0, responseExpect := 1, index := 24 } := by decide
theorem test_view_pulse :
    encCmd Layout.default (decCmd Layout.default 0x80202000) = 0x80000000 := by decide
theorem test_view_status : decStatus Layout.default 0x01000000 =
    { dataBusy := 0, fifoCount := 128 } := by decide
/-- V40-8. -/
theorem test_view_values : encClkdiv Layout.default { divider := 62 } = 0x3E ∧
    encBlksiz Layout.default { blockSize := 512 } = 0x200 := by decide
/-- V41-15. -/
theorem test_encoder_extra_bits :
    cardValue { Params.default with cmdExtraBits := 0x20002000 } .sendIfCond = 0xA0002148 := by
  decide
/-- V43-1, V43-2, V43-3. -/
theorem test_hasError_named : ([0x0002, 0x0040, 0x0080, 0x0100, 0x0200, 0x2000, 0x8000] :
    List Word).all (hasError Layout.default) = true := by decide
theorem test_hasError_unnamed :
    ([0x5C3D, 0xFFFF0000] : List Word).any (hasError Layout.default) = false := by decide
/-- V43-4. -/
theorem test_ifCond : decodeIfCond (.ok 0xFFFFF1AA 0 0 0) = true ∧
    decodeIfCond (.ok 0x2AA 0 0 0) = false ∧ decodeIfCond (.failed 0x104) = false := by decide
/-- V43-5. -/
theorem test_ocr : decodeOcr Params.default 0x80FF8000 = (true, false) ∧
    decodeOcr Params.default 0x40FF8000 = (false, true) := by decide
/-- V43-6. -/
theorem test_assembleCid : assembleCid Params.default 0x7801575B 0x80123456 0x43313647 0x03534453 =
    0x0353445343313647801234567801575B := by decide
/-- V43-10. -/
theorem test_decodeCid : decodeCid 0x0353445343313647801234567801575B =
    { manufacturerId := 3, oemId := (0x53, 0x44), productName := (0x53, 0x43, 0x31, 0x36, 0x47)
      revMajor := 8, revMinor := 0, serial := 0x12345678, year := 2021, month := 7 } := by decide
/-- V43-13: "15.15" and "2255-15". -/
theorem test_formatCid : (formatCid (decodeCid (BitVec.allOnes 128))).revision =
      [0x31, 0x35, 0x2E, 0x31, 0x35] ∧
    (formatCid (decodeCid (BitVec.allOnes 128))).date =
      [0x32, 0x32, 0x35, 0x35, 0x2D, 0x31, 0x35] := by decide
/-- V40-17: byte order. -/
theorem test_buffer_word :
    Memory.readLE (Memory.writeLE [] 8 8 0x342D261F18110A03) 8 8 = 0x342D261F18110A03 ∧
    Memory.read (Memory.writeLE [] 8 8 0x342D261F18110A03) 8 = 0x03 := by decide
/-- V40-11: a flag that rises between the read and the write-back stays. -/
theorem test_ack_race : ackFlags (raiseFlags 0x4 0x8) 0x4 = 0x8 := by decide

/-! ## The command rows: what each one submits -/

/-- The CMD value and argument of the exchange an instruction begins. -/
def submits (i : Instr) (s : State) (v a : Word) : Bool :=
  given i s fun t => t.wrk.cmdval == v && t.wrk.arg == a && t.ph.xstep == 1 &&
    t.ph.phase == .wait .ready .start

/-- The size registers, CMD value and argument of the data-bearing exchange an instruction begins after its
PROGRAM_TXN. -/
def programs (i : Instr) (n v a : Word) : Bool :=
  given i (State.reset |> withMoves (prompt 2)) fun s => after 2 s fun t =>
    t.regs.blksiz == n && t.regs.bytcnt == n && t.wrk.cmdval == v && t.wrk.arg == a &&
      t.ph.xstep == 1 && t.trace.length == 2

/-- A block whose card has the address 0xAAAA. -/
def addressed : State := { State.reset with ses := { SessionRegs.reset with rca := 0xAAAA } }

theorem test_goIdleState : submits .goIdleState State.reset 0x80008000 0 = true := by decide
theorem test_allSendCid : submits .allSendCid State.reset 0x800000C2 0 = true := by decide
theorem test_sendRelativeAddr :
    submits .sendRelativeAddr State.reset 0x80000143 0 = true := by decide
/-- V44-5. -/
theorem test_selectCard : submits .selectCard addressed 0x80000147 0xAAAA0000 = true := by decide
theorem test_sendIfCond : submits .sendIfCond State.reset 0x80000148 0x1AA = true := by decide
theorem test_sendCsd : submits .sendCsd addressed 0x80000049 0xAAAA0000 = true := by decide
/-- 30 R107: the raw index, once BLKSIZ and BYTCNT hold 512. -/
theorem test_readSingleBlock :
    programs (.readSingleBlock 0xFFFFFFFF 1) 512 0x80000351 0xFFFFFFFF = true := by decide
theorem test_writeSingleBlock : programs (.writeSingleBlock 5 1) 512 0x80000758 5 = true := by
  decide
/-- 00 R11: a block buffer of another length. -/
theorem test_readSingleBlock_length :
    given (.readSingleBlock 0 1) { State.reset with lens := [(1, 513)] }
      (fun t => t.fault == some (.contractViolation .bufferLength)) = true := by decide
theorem test_sdSendOpCond :
    submits .sdSendOpCond State.reset 0x80000069 0x40FF8000 = true := by decide
/-- V44-7: BLKSIZ and BYTCNT hold 8. -/
theorem test_sendScr : programs .sendScr 8 0x80000373 0 = true := by decide
theorem test_appCmd : submits (.appCmd 0xAAAA0000) State.reset 0x80000177 0xAAAA0000 = true := by
  decide
/-- 42 R170: any 32-bit argument is sent as it is. -/
theorem test_appCmd_low_half :
    submits (.appCmd 0x00000001) State.reset 0x80000177 0x00000001 = true := by decide
/-- V42-17, its first transaction. -/
theorem test_commitClk : after 1 (phaseAt .pulseWrite .bare .powerOn |> withMoves (prompt 1))
    (fun t => t.trace == [.memWrite 0x1602002C 4 0x80202000] && t.regs.cmd == 0x80202000) = true := by
  decide

/-! ## The client operations -/

/-- V44-1, its first transaction. -/
theorem test_init_first : after 1 (phaseAt .clockOff .pulseOff .clockReset |> withMoves (prompt 1))
    (fun t => t.trace == [.memWrite 0x16020010 4 0] && t.ph.phase == .pulseWrite) = true := by decide
/-- V45-7. -/
theorem test_init_second : given .init (phaseAt .idle .bare .failed)
    (fun t => t.fault == some (.contractViolation .secondInit) && t.ph.busy) = true := by decide
/-- V45-4: the length check comes before the usable gate. -/
theorem test_readBlock_length : given (.readBlock 0 ⟨1, 511⟩) State.reset
    (fun t => t.fault == some (.contractViolation .bufferLength) && t.completion == none) = true := by
  decide
/-- V45-11, its first transaction. -/
theorem test_readBlock_programs :
    after 1 (phaseAt .blockSize .readBlock .ready |> withMoves (prompt 1))
      (fun t => t.trace == [.memWrite 0x1602001C 4 0x200]) = true := by decide
/-- V45-6. -/
theorem test_writeBlock_gate : given (.writeBlock 3 ⟨1, 512⟩) (phaseAt .idle .bare .failed)
    (fun t => t.completion == some (.err .initError) && t.trace == []) = true := by decide
/-- V45-10. -/
theorem test_busy : given (.writeBlock 3 ⟨1, 512⟩) (phaseAt .ackRead .readBlock .ready) (fun _ => true) =
    false := by decide

/-! ## Witnesses: the hypotheses of the obligations are met -/

theorem witness_DecodeEncodeAgree : (Instr.appCmd 0xFFFFFFFF).wf = true ∧
    decode ⟨.cmdreg, 0xA0002177, 0x00010001, 7, 0⟩ = .ok (.appCmd 0x00010001) ∧
    decode ⟨.clientop, 0xFFFFFFFE, 1, 2, 3⟩ = .ok (.writeBlock 1 ⟨2, 3⟩) := ⟨by decide, rfl, rfl⟩

theorem witness_CommandValuesAndDecoder : Params.default.printed := ⟨rfl, rfl⟩

theorem witness_TypedViewsRoundTrip : Layout.default.wf = true := by decide

theorem witness_HasErrorIsSevenFlags : Layout.default.wf = true := by decide

theorem witness_EncodedCommandsReadBack_params :
    { Params.default with cmdExtraBits := 0x20002000 }.wf = true := by decide

theorem witness_EncodedCommandsReadBack_accepted :
    let s := phaseAt (.wait .accepted .poll) .bare .powerOn |> withMoves (prompt 1)
    s.running ∧ s.ph.phase = .wait .accepted .poll ∧
      (decCmd s.cfg.layout (readVal .cmd s)).start = 0 :=
  ⟨⟨⟨rfl, default_wf, rfl⟩, rfl, by decide⟩, rfl, by decide⟩

/-- `command_done` rises with the next move. -/
def doneMove : EnvMove := { (default : EnvMove) with rint := 4 }

theorem witness_EncodedCommandsReadBack_done :
    let s := phaseAt (.wait .done .poll) .bare .powerOn |> withMoves [doneMove]
    s.running ∧ s.ph.phase = .wait .done .poll ∧
      (decRintsts s.cfg.layout (readVal .rintsts s)).commandDone = 1 :=
  ⟨⟨⟨rfl, default_wf, rfl⟩, rfl, by decide⟩, rfl, by decide⟩

theorem witness_UnsupportedOpcodesFault_first :
    let s := asked .cmdreg 0x80000141 0 0 0
    s.inService ∧ s.isIdle = true ∧ s.port = some ⟨.cmdreg, 0x80000141, 0, 0, 0⟩ ∧
      decode ⟨.cmdreg, 0x80000141, 0, 0, 0⟩ = .error (.unsupported 1) :=
  ⟨⟨rfl, default_wf, rfl⟩, rfl, rfl, rfl⟩

theorem witness_UnsupportedOpcodesFault_last : (0x80000178 : Word) &&& 0x80200000 = 0x80000000 ∧
    ((0x80000178 : Word).extractLsb' 0 6).toNat = (56 : Fin 57).val ∧
    (56 : Fin 57).val ∉ [0, 2, 3, 7, 8, 9, 17, 24, 41, 51, 55] := by decide

theorem witness_UnsupportedOpcodesFault_supported :
    (55 : Fin 57).val ∈ [0, 2, 3, 7, 8, 9, 17, 24, 41, 51, 55] := by decide

theorem witness_CidFieldsWhereTheyStand : Params.default.cidMsw = .resp3 ∧
    { Params.default with cidMsw := .resp0 }.cidMsw = .resp0 := ⟨rfl, rfl⟩

theorem witness_PlainCommandsStart : addressed.isIdle = true ∧ addressed.cfg.printed ∧
    plainExchange addressed .selectCard = some (.selectCard, 0x80000147, 0xAAAA0000) :=
  ⟨rfl, ⟨rfl, rfl⟩, rfl⟩

theorem witness_DataCommandsStart : State.reset.isIdle = true ∧
    State.reset.bufferLength 0xFFFFFFFF = 512 ∧
    { State.reset with lens := [(1, 511), (2, 513)] }.isIdle = true ∧
    { State.reset with lens := [(1, 511), (2, 513)] }.bufferLength 1 ≠ 512 ∧
    { State.reset with lens := [(1, 511), (2, 513)] }.bufferLength 2 ≠ 512 := by decide

theorem witness_PlainExchangeRuns :
    let s := State.reset |> withMoves (prompt 7 ++ [doneMove] ++ prompt 6)
    s.inService ∧ s.port = none ∧ s.isIdle = true ∧
      plainExchange s .sendIfCond = some (.sendIfCond, 0x80000148, 0x1AA) ∧
      Instr.sendIfCond ≠ .goIdleState ∧
      s.env.script = default :: default :: default :: default :: default :: default :: default ::
        doneMove :: default :: default :: default :: default :: default :: default :: [] ∧
      cmdStart s.cfg.layout (default : EnvMove).cmd = false ∧
      flagCommandDone s.cfg.layout doneMove.rint = true :=
  ⟨⟨rfl, default_wf, rfl⟩, rfl, rfl, rfl, by decide, rfl, by decide, by decide⟩

theorem witness_GoIdleExchangeRuns :
    let s := State.reset |> withMoves (prompt 12)
    s.inService ∧ s.port = none ∧ s.isIdle = true ∧
      s.env.script = default :: default :: default :: default :: default :: default :: default ::
        default :: default :: default :: default :: default :: [] ∧
      cmdStart s.cfg.layout (default : EnvMove).cmd = false :=
  ⟨⟨rfl, default_wf, rfl⟩, rfl, rfl, rfl, by decide⟩

theorem witness_CommitPulseRuns :
    let s := State.reset |> withMoves (prompt 3)
    s.inService ∧ s.port = none ∧ s.isIdle = true ∧
      s.env.script = default :: default :: default :: [] ∧
      cmdStart s.cfg.layout (default : EnvMove).cmd = false :=
  ⟨⟨rfl, default_wf, rfl⟩, rfl, rfl, rfl, by decide⟩

theorem witness_InitAccepted : State.reset.isIdle = true ∧ State.reset.ph.ps = .powerOn ∧
    (phaseAt .idle .bare .ready).isIdle = true ∧ (phaseAt .idle .bare .ready).ph.ps ≠ .powerOn :=
  ⟨rfl, rfl, rfl, by decide⟩

/-- A block with a usable card. -/
def usable : State :=
  { phaseAt .idle .bare .ready with ses := { SessionRegs.reset with usable := true } }

/-- The lengths of 45 R254 that fault. -/
theorem witness_BlocksAccepted_length : usable.isIdle = true ∧ (0 : Word).toNat ≠ 512 ∧
    (511 : Word).toNat ≠ 512 ∧ (513 : Word).toNat ≠ 512 := by decide

theorem witness_BlocksAccepted_gate : State.reset.isIdle = true ∧ (512 : Word).toNat = 512 ∧
    State.reset.ses.usable = false := by decide

theorem witness_BlocksAccepted_runs : usable.isIdle = true ∧ (512 : Word).toNat = 512 ∧
    usable.ses.usable = true := by decide

theorem witness_BlockCommandsProgrammed (c : Ctx) (q : PState) :
    (phaseAt .blockSize c q).running ∧ (phaseAt .blockSize c q).ph.phase = .blockSize ∧
    (phaseAt .blockSize c q).ph.ctx = c ∧ (phaseAt .blockSize c q).cfg.printed ∧
    Ctx.forData .scr = true ∧ Ctx.forData .scrRow = true ∧ Ctx.forData .readBlock = true ∧
    Ctx.forData .readRow = true ∧ Ctx.forData .writeBlock = true ∧ Ctx.forData .writeRow = true :=
  ⟨phaseAt_running _ _ _ (fun h => by cases h), rfl, rfl, ⟨rfl, rfl⟩, rfl, rfl, rfl, rfl, rfl, rfl⟩

/-- An operation whose exchange, pulse or request has answered `r`. -/
def answered (c : Ctx) (q : PState) (r : OpResult) : State :=
  { phaseAt .returned c q with result := some r }

theorem answered_running (c : Ctx) (q : PState) (r : OpResult) :
    (answered c q r).running ∧ (answered c q r).ph.phase = .returned ∧
      (answered c q r).ph.ctx = c ∧ (answered c q r).result = some r :=
  ⟨⟨⟨rfl, default_wf, rfl⟩, rfl, fun h => by cases h⟩, rfl, rfl, rfl⟩

theorem witness_BlockOutcomesMapped (o : XOutcome) :
    (answered .readBlock .ready (.xchg o)).running ∧
      (answered .writeBlock .ready (.xchg o)).running :=
  ⟨(answered_running _ _ _).1, (answered_running _ _ _).1⟩

theorem witness_WaitTestsConditionFirst (w : WaitFor) (stage : WaitStage) :
    (phaseAt (.wait w stage) .bare .powerOn).running :=
  phaseAt_running _ _ _ (fun h => by cases h)

/-- The clock stands at the deadline. -/
def late (p : Phase) (c : Ctx) : State :=
  phaseAt p c .ready |> withMoves [{ (default : EnvMove) with ms := 100 }]

theorem witness_ExpiredWaitTimesOut (w : WaitFor) :
    ((late (.wait w .check) .bare).running ∧
      (late (.wait w .check) .bare).cfg.timeoutMs ≤
        clockVal (late (.wait w .check) .bare) - (late (.wait w .check) .bare).wrk.t0) ∧
    (late .pumpTime .readBlock).running ∧
      (late .pumpTime .readBlock).cfg.timeoutMs ≤
        clockVal (late .pumpTime .readBlock) - (late .pumpTime .readBlock).wrk.t0 :=
  ⟨⟨⟨⟨rfl, default_wf, rfl⟩, rfl, fun h => by cases h⟩, le_refl 100⟩,
    ⟨⟨rfl, default_wf, rfl⟩, rfl, fun h => by cases h⟩, le_refl 100⟩

/-- Step 2 of GO_IDLE_STATE. -/
def submitting : State :=
  { phaseAt .writeArg .bare .powerOn with
    wrk := { WorkRegs.reset with cmdval := 0x80008000 } }

theorem witness_SubmitWritesArgThenCmd : submitting.running ∧ submitting.ph.phase = .writeArg ∧
    cmdStart submitting.cfg.layout submitting.wrk.cmdval = true :=
  ⟨⟨⟨rfl, default_wf, rfl⟩, rfl, by decide⟩, rfl, by decide⟩

theorem witness_AcknowledgeRespondClassify : (phaseAt .ackRead .bare .powerOn).running :=
  phaseAt_running _ _ _ (by decide)

theorem witness_SubmitOnlyAfterStartClear :
    let s := phaseAt (.wait .notBusy .poll) .bare .powerOn |> withMoves (prompt 1)
    ∃ t, step s = .next t ∧ t.ph.phase = .writeArg ∧ s.ph.phase ≠ .writeArg :=
  ⟨_, step_running ⟨⟨rfl, default_wf, rfl⟩, rfl, by decide⟩, by decide, by decide⟩

theorem witness_SubmitOnlyAfterStartClear_cmd :
    ∃ t, step submitting = .next t ∧ t.ph.phase = .writeCmd :=
  ⟨_, step_running ⟨⟨rfl, default_wf, rfl⟩, rfl, by decide⟩, rfl⟩

/-- Step 1 of a command, `start` reading 0 at the next poll: with a data phase and without. -/
theorem witness_StepOneReachesSubmit (b : Bool) :
    let s := { phaseAt (.wait .ready .poll) .readBlock .ready with
      env := { Env.reset with script := prompt 1 }
      wrk := { WorkRegs.reset with cmdval := if b then 0x80000351 else 0x80000148 } }
    s.running ∧ s.ph.phase = .wait .ready .poll ∧
      (decCmd s.cfg.layout (readVal .cmd s)).start = 0 ∧
      ((decCmd s.cfg.layout s.wrk.cmdval).dataExpected = 1 ↔ b = true) :=
  ⟨⟨⟨rfl, default_wf, rfl⟩, rfl, fun h => by cases h⟩, rfl, by cases b <;> decide,
    by cases b <;> decide⟩

theorem witness_StepOneReachesSubmit_notBusy :
    let s := phaseAt (.wait .notBusy .poll) .readBlock .ready |> withMoves (prompt 1)
    s.running ∧ s.ph.phase = .wait .notBusy .poll ∧
      (decStatus s.cfg.layout (readVal .status s)).dataBusy = 0 :=
  ⟨⟨⟨rfl, default_wf, rfl⟩, rfl, by decide⟩, rfl, by decide⟩

theorem witness_NotBusyEntered :
    let s := { phaseAt (.wait .ready .poll) .readBlock .ready with
      env := { Env.reset with script := prompt 1 }
      wrk := { WorkRegs.reset with cmdval := 0x80000351 } }
    ∃ t, step s = .next t ∧ t.ph.phase = .wait .notBusy .start :=
  ⟨_, step_running ⟨⟨rfl, default_wf, rfl⟩, rfl, by decide⟩, by decide⟩

theorem witness_NotBusyPolled :
    (∃ t, step (phaseAt (.wait .notBusy .start) .readBlock .ready) = .next t ∧
      t.ph.phase = .wait .notBusy .poll) ∧
    (let s := phaseAt (.wait .notBusy .poll) .readBlock .ready |>
        withMoves [{ (default : EnvMove) with status := 0x200 }]
     ∃ t, step s = .next t ∧ t.ph.phase = .wait .notBusy .check) :=
  ⟨⟨_, step_running (phaseAt_running _ _ _ (fun h => by cases h)), rfl⟩,
    _, step_running ⟨⟨rfl, default_wf, rfl⟩, rfl, by decide⟩, by decide⟩

/-- A read pump with two words in the FIFO. -/
def draining (units : FifoUnits) : State :=
  { phaseAt .pumpCount .readBlock .ready with
    cfg := { Params.default with units := units }
    regs := { Regs.reset with ctrl := 0 }
    env := { Env.reset with fifo := [0x11, 0x22], script := List.replicate 5 default }
    wrk := { WorkRegs.reset with td := .read (.client 1) 64, cursor := 62 } }

theorem draining_wf (u : FifoUnits) : (draining u).cfg.wf = true := by cases u <;> decide

theorem witness_ReadPumpDrains :
    let s := draining .two
    s.running ∧ s.ph.phase = .pumpCount ∧ s.wrk.td = .read (.client 1) 64 ∧ s.cfg.units = .two ∧
      s.env.script = prompt 5 ++ [] ∧ (prompt 5).length = 2 * s.env.fifo.length + 1 ∧
      (∀ m ∈ prompt 5, fifoQuiet m) ∧ ResetBit.reads s.cfg.layout s.regs.ctrl .fifo = false ∧
      s.wrk.cursor + s.env.fifo.length ≤ 64 ∧ 2 * s.env.fifo.length < 8192 ∧ s.mem.wf = true :=
  ⟨⟨⟨rfl, draining_wf _, rfl⟩, rfl, by decide⟩, rfl, rfl, rfl, rfl, rfl,
    fun m h => by rw [List.eq_of_mem_replicate h]; exact ⟨rfl, rfl, rfl⟩, by decide, by decide,
    by decide, rfl⟩

/-- The SCR's one word, on a FIFO of one word (`W = 8`). -/
theorem witness_ReadPumpDrains_scr :
    let s := { draining .two with
      ph := (phaseAt .pumpCount .scr .busWidthQuery).ph
      env := { Env.reset with fifo := [0x11], script := prompt 3 }
      wrk := { WorkRegs.reset with td := .read .scr 1 } }
    s.running ∧ s.ph.phase = .pumpCount ∧ s.wrk.td = .read .scr 1 ∧ s.cfg.units = .two ∧
      s.env.script = prompt 3 ++ [] ∧ (prompt 3).length = 2 * s.env.fifo.length + 1 ∧
      (∀ m ∈ prompt 3, fifoQuiet m) ∧ ResetBit.reads s.cfg.layout s.regs.ctrl .fifo = false ∧
      s.wrk.cursor + s.env.fifo.length ≤ 1 ∧ s.cfg.w.bytes = 8 :=
  ⟨⟨⟨rfl, draining_wf .two, rfl⟩, rfl, by decide⟩, rfl, rfl, rfl, rfl, rfl,
    fun m h => by rw [List.eq_of_mem_replicate h]; exact ⟨rfl, rfl, rfl⟩, by decide, by decide,
    rfl⟩

theorem witness_ResidualWordStays :
    let s := { draining .one with env := { (draining .one).env with script := prompt 3 } }
    s.running ∧ s.ph.phase = .pumpCount ∧ s.wrk.td = .read (.client 1) 64 ∧ s.cfg.units = .one ∧
      s.env.fifo = [0x11] ++ [0x22] ∧ s.env.script = prompt 3 ++ [] ∧
      (prompt 3).length = 2 * [(0x11 : DWord)].length + 1 ∧ (∀ m ∈ prompt 3, fifoQuiet m) ∧
      ResetBit.reads s.cfg.layout s.regs.ctrl .fifo = false ∧ s.wrk.cursor + 1 ≤ 64 :=
  ⟨⟨⟨rfl, draining_wf .one, rfl⟩, rfl, by decide⟩, rfl, rfl, rfl, rfl, rfl, rfl,
    fun m h => by rw [List.eq_of_mem_replicate h]; exact ⟨rfl, rfl, rfl⟩, by decide, by decide⟩

/-- A write pump with two words of its source left. -/
def filling : State :=
  { phaseAt .pumpCount .writeBlock .ready with
    env := { Env.reset with script := List.replicate 4 { (default : EnvMove) with taken := 1 } }
    wrk := { WorkRegs.reset with td := .write 1 64, cursor := 62 } }

theorem witness_WritePumpFills :
    filling.running ∧ filling.ph.phase = .pumpCount ∧ filling.wrk.td = .write 1 64 ∧
      filling.wrk.cursor < 64 ∧ filling.env.fifo = [] ∧
      filling.env.script.length = 2 * (64 - filling.wrk.cursor) ∧
      (∀ m ∈ filling.env.script, fifoTakes m) :=
  ⟨⟨⟨rfl, default_wf, rfl⟩, rfl, by decide⟩, rfl, rfl, by decide, rfl, rfl,
    fun m h => by rw [List.eq_of_mem_replicate h]; exact ⟨Nat.le_refl 1, rfl, rfl, rfl⟩⟩

/-- The first step of a pump with a descriptor and a CMD value. -/
def pumpFirst (td : Descriptor) (v : Word) : State :=
  { phaseAt .pumpStart .readBlock .ready with
    wrk := { WorkRegs.reset with td := td, cmdval := v } }

/-- 30 R113: the two matching descriptors, and three that do not match. -/
theorem witness_PumpBeginsAndLoops_start (td : Descriptor) (v : Word) :
    (pumpFirst td v).running ∧ (pumpFirst td v).ph.phase = .pumpStart ∧
    (decCmd Layout.default 0x80000351).dataExpected = 1 ∧
    (decCmd Layout.default 0x80000351).direction = 0 ∧
    (decCmd Layout.default 0x80000758).dataExpected = 1 ∧
    (decCmd Layout.default 0x80000758).direction = 1 ∧
    (decCmd Layout.default 0x80000148).dataExpected = 0 :=
  ⟨⟨⟨rfl, default_wf, rfl⟩, rfl, fun h => by cases h⟩, rfl, by decide⟩

/-- One millisecond before the deadline. -/
theorem witness_PumpBeginsAndLoops_loop :
    let s := phaseAt .pumpTime .readBlock .ready |>
      withMoves [{ (default : EnvMove) with ms := 99 }]
    s.running ∧ s.ph.phase = .pumpTime ∧ clockVal s - s.wrk.t0 < s.cfg.timeoutMs :=
  ⟨⟨⟨rfl, default_wf, rfl⟩, rfl, by decide⟩, rfl, by decide⟩

theorem witness_PumpMovesOneWord (h : Word) :
    (let s := { draining .two with
       ph := (phaseAt .pumpMove .readBlock .ready).ph
       wrk := { WorkRegs.reset with td := .read (.client h) 64, cursor := 63 } }
     s.running ∧ s.ph.phase = .pumpMove ∧ s.wrk.td = .read (.client h) 64 ∧ s.mem.wf = true) ∧
    (let s := { draining .two with
       ph := (phaseAt .pumpMove .scr .busWidthQuery).ph
       wrk := { WorkRegs.reset with td := .read .scr 1 } }
     s.running ∧ s.ph.phase = .pumpMove ∧ s.wrk.td = .read .scr 1) ∧
    (let s := { filling with ph := (phaseAt .pumpMove .writeBlock .ready).ph }
     s.running ∧ s.ph.phase = .pumpMove ∧ s.wrk.td = .write 1 64) :=
  ⟨⟨⟨⟨rfl, draining_wf .two, rfl⟩, rfl, fun h => by cases h⟩, rfl, rfl, rfl⟩,
    ⟨⟨⟨rfl, draining_wf .two, rfl⟩, rfl, fun h => by cases h⟩, rfl, rfl⟩,
    ⟨⟨rfl, default_wf, rfl⟩, rfl, fun h => by cases h⟩, rfl, rfl⟩

theorem witness_PumpThresholds : (draining .two).running ∧
    (draining .two).wrk.td = .read (.client 1) 64 ∧ (draining .two).wrk.cursor < 64 ∧
    filling.running ∧ filling.wrk.td = .write 1 64 :=
  ⟨⟨⟨rfl, draining_wf _, rfl⟩, rfl, by decide⟩, rfl, by decide,
    ⟨⟨rfl, default_wf, rfl⟩, rfl, by decide⟩, rfl⟩

/-- V42-9: the SCR buffer of one word is full and two words are in the FIFO. -/
def overrunning : State :=
  { draining .two with wrk := { WorkRegs.reset with td := .read .scr 1, cursor := 1 } }

theorem witness_FullBufferOverruns : overrunning.running ∧ overrunning.ph.phase = .pumpCount ∧
    overrunning.wrk.td = .read .scr 1 ∧ 1 ≤ overrunning.wrk.cursor ∧
    2 ≤ statusCount overrunning.cfg.layout (readVal .status overrunning) :=
  ⟨⟨⟨rfl, draining_wf .two, rfl⟩, rfl, by decide⟩, rfl, rfl, by decide, by decide⟩

theorem witness_PumpExitBeforeDeadline :
    let s := { draining .two with ph := (phaseAt .pumpSnap .readBlock .ready).ph }
    s.running ∧ s.ph.phase = .pumpSnap ∧ s.wrk.td = .read (.client 1) 64 :=
  ⟨⟨⟨rfl, draining_wf .two, rfl⟩, rfl, by decide⟩, rfl, rfl⟩

/-- The write pump at the head of an iteration, with words of its source left and with none. -/
theorem witness_PumpExitBeforeDeadline_write (k : Fin 2) :
    let s := { phaseAt .pumpSnap .writeBlock .ready with
      wrk := { WorkRegs.reset with td := .write 1 64, cursor := 63 + k.val } }
    s.running ∧ s.ph.phase = .pumpSnap ∧ s.wrk.td = .write 1 64 :=
  ⟨⟨⟨rfl, default_wf, rfl⟩, rfl, fun h => by cases h⟩, rfl, rfl⟩

theorem witness_FlagsClearOnlyWhenWritten :
    let s := { phaseAt .ackWrite .bare .powerOn with regs := { Regs.reset with rintsts := 0x8001 } }
    ∃ t, step s = .next t ∧ s.regs.rintsts.getLsbD 0 = true ∧ s.regs.rintsts.getLsbD 15 = true :=
  ⟨_, step_running ⟨⟨rfl, default_wf, rfl⟩, rfl, by decide⟩, by decide, by decide⟩

theorem witness_StartRisesOnlyByWriting :
    let s := { phaseAt .pulseWrite .bare .powerOn with
      regs := { Regs.reset with cmd := 0 }, env := { Env.reset with script := prompt 1 } }
    ∃ t, step s = .next t ∧ cmdStart s.cfg.layout s.regs.cmd = false ∧
      cmdStart s.cfg.layout t.regs.cmd = true :=
  ⟨_, step_running ⟨⟨rfl, default_wf, rfl⟩, rfl, by decide⟩, by decide, by decide⟩

/-- Step 3 of GO_IDLE_STATE: the command is in flight and the next move accepts it. -/
def inFlight : State :=
  { phaseAt (.wait .accepted .poll) .bare .powerOn with
    regs := { Regs.reset with cmd := 0x80008000 }
    env := { Env.reset with flight := some ⟨0x80008000, 0⟩, script := prompt 1 }
    wrk := { WorkRegs.reset with cmdval := 0x80008000 } }

theorem inFlight_seq : SeqInv inFlight :=
  ⟨rfl, rfl, rfl, by decide, rfl, rfl, fun _ => ⟨.goIdleState, by decide⟩⟩

theorem witness_StartFalls : SeqInv inFlight ∧ ∃ t, step inFlight = .next t ∧
    cmdStart inFlight.cfg.layout inFlight.regs.cmd = true ∧
    cmdStart inFlight.cfg.layout t.regs.cmd = false :=
  ⟨inFlight_seq, _, step_running ⟨⟨rfl, default_wf, rfl⟩, rfl, by decide⟩, by decide, by decide⟩

theorem witness_InFlightOnlyWhileStart : SeqInv inFlight ∧ flightFits inFlight ∧
    inFlight.env.flight.isSome = true ∧ ∃ t, step inFlight = .next t :=
  ⟨inFlight_seq, fun _ => by decide, rfl, _,
    step_running ⟨⟨rfl, default_wf, rfl⟩, rfl, by decide⟩⟩

theorem witness_StartKept : ∃ t, step (phaseAt .ackRead .bare .powerOn) = .next t ∧
    (phaseAt .ackRead .bare .powerOn).ph.phase ≠ .writeCmd ∧
    (phaseAt .ackRead .bare .powerOn).ph.phase ≠ .pulseWrite :=
  ⟨_, step_running (phaseAt_running _ _ _ (by decide)), by decide, by decide⟩

theorem witness_ResetBitsOnlyRequested (f : ResetBit) :
    (phaseAt (.resetRead f) (resetCtx f) .fifoReset).running :=
  phaseAt_running _ _ _ (fun h => by cases h)

theorem witness_ResetBitRises :
    let s := { phaseAt (.resetWrite .dma) .dmaReset .dmaReset with
      regs := { Regs.reset with ctrl := 0 }, env := { Env.reset with script := prompt 1 } }
    ∃ t, step s = .next t ∧ (resetMask s.cfg.layout).getLsbD 2 = true ∧
      s.regs.ctrl.getLsbD 2 = false ∧ t.regs.ctrl.getLsbD 2 = true :=
  ⟨_, step_running ⟨⟨rfl, default_wf, rfl⟩, rfl, by decide⟩, by decide, by decide, by decide⟩

/-- 60 R284: a standstill that may last one move more, and then time passes. -/
theorem test_standstill :
    let s := State.reset |> withMoves [{ (default : EnvMove) with hold := 1 }, default, default]
    ([1, 2, 3].map fun k => (Nat.iterate envStep k s).env.clock) = [0, 0, 1] := by decide

/-- A wait whose condition does not hold at this poll, and each place in a pump's loop. -/
theorem witness_ClockNeverRunsBack :
    (phaseAt (.wait .done .poll) .bare .powerOn).running ∧ (draining .two).running ∧
    ∀ p ∈ ([.pumpSnap, .pumpCount, .pumpMove, .pumpTime] : List Phase),
      ({ draining .two with ph := (phaseAt p .readBlock .ready).ph } : State).running :=
  ⟨phaseAt_running _ _ _ (by decide), ⟨⟨rfl, draining_wf .two, rfl⟩, rfl, by decide⟩,
    fun p h => ⟨⟨rfl, draining_wf .two, rfl⟩, rfl, by
      rintro rfl; revert h; decide⟩⟩

/-- The next poll accepts the commit pulse in flight. -/
theorem witness_CardClockChangesOnlyByPulse :
    let s := { phaseAt (.wait .pulse .poll) .bare .powerOn with
      regs := { Regs.reset with clkdiv := 62, clkena := 1, cmd := 0x80202000 }
      env := { Env.reset with flight := some ⟨0x80202000, 0⟩, script := prompt 1 } }
    ∃ t, step s = .next t ∧ s.env.cardDiv = 0 ∧ t.env.cardDiv = 62 ∧ t.env.cardEna = 1 :=
  ⟨_, step_running ⟨⟨rfl, default_wf, rfl⟩, rfl, by decide⟩, rfl, by decide, by decide⟩

theorem witness_steps : ∃ t, step (phaseAt (.wait .pulse .start) .bare .powerOn) = .next t ∧
    ∃ n, t.trace = .now n :: State.reset.trace :=
  ⟨_, step_running (phaseAt_running _ _ _ (by decide)), _, rfl⟩

theorem witness_FifoAccessLaw : State.reset.cfg.wf = true ∧
    (envStep (draining .two)).env.fifo = 0x11 :: [0x22] ∧ (nextMove (draining .two)).full = false :=
  ⟨default_wf, rfl, rfl⟩

theorem witness_ClockResetRuns :
    let s := phaseAt .clockOff .pulseOff .clockReset |> withMoves (prompt 9 ++ [])
    s.running ∧ s.ph.phase = .clockOff ∧ s.ph.ctx = .pulseOff ∧ s.env.script = prompt 9 ++ [] ∧
      (prompt 9).length = 9 ∧ (∀ m ∈ prompt 9, cmdStart s.cfg.layout m.cmd = false) :=
  ⟨⟨⟨rfl, default_wf, rfl⟩, rfl, by decide⟩, rfl, rfl, rfl, rfl,
    fun m h => by rw [List.eq_of_mem_replicate h]; decide⟩

theorem witness_ResetsLeadToVoltageCheck (f : ResetBit) :
    (let s := phaseAt (.wait (.reset f) .poll) (resetCtx f) .fifoReset |> withMoves (prompt 1)
     s.running ∧ ResetBit.reads s.cfg.layout (readVal .ctrl s) f = false) ∧
    (answered .fifoReset .fifoReset .done).running ∧
    (phaseAt .busWidth .fifoReset .busWidthInit).running ∧
    (answered .dmaReset .dmaReset .done).running ∧
    (answered .goIdle .idle (.xchg (.ok 0 0 0 0))).running :=
  ⟨⟨⟨⟨rfl, default_wf, rfl⟩, rfl, fun h => by cases h⟩, by cases f <;> decide⟩,
    (answered_running _ _ _).1, phaseAt_running _ _ _ (by decide), (answered_running _ _ _).1,
    (answered_running _ _ _).1⟩

theorem witness_MandatoryFailureAbortsInit :
    (answered .pulseOff .clockReset .timedOut).running ∧
    (answered .dmaReset .dmaReset .timedOut).running ∧
    (answered .goIdle .idle (.xchg (.failed 0x0104))).running ∧
    (answered .select .select (.xchg (.timedOut 4))).running ∧
    (answered .voltage .voltageCheck (.xchg (.timedOut 1))).running ∧
    ∀ r0 r1 r2 r3, XOutcome.failed 0x0104 ≠ .ok r0 r1 r2 r3 :=
  ⟨(answered_running _ _ _).1, (answered_running _ _ _).1, (answered_running _ _ _).1,
    (answered_running _ _ _).1, (answered_running _ _ _).1, fun _ _ _ _ h => by cases h⟩

/-- OcrPoll after `n` attempts. -/
def polled (c : Ctx) (n : Nat) (o : XOutcome) : State :=
  { answered c .ocrPoll (.xchg o) with ses := { SessionRegs.reset with ocrAttempts := n } }

theorem witness_OcrPoll_last : (polled .ocrApp 5 (.failed 0x0104)).running ∧
    (polled .ocrCond 5 (.ok 0x00FF8000 0 0 0)).running ∧
    (polled .ocrCond 5 (.ok 0x00FF8000 0 0 0)).cfg.ocrRetryMax ≤ 5 ∧
    (0x00FF8000 : Word).getLsbD Params.default.ocrReadyBit = false :=
  ⟨⟨⟨rfl, default_wf, rfl⟩, rfl, fun h => by cases h⟩,
    ⟨⟨rfl, default_wf, rfl⟩, rfl, fun h => by cases h⟩, by decide, by decide⟩

theorem witness_OcrPollRetries : (polled .ocrApp 4 (.failed 0x0104)).running ∧
    (polled .ocrCond 4 (.ok 0x00FF8000 0 0 0)).running ∧
    4 < (polled .ocrCond 4 (.ok 0x00FF8000 0 0 0)).cfg.ocrRetryMax ∧
    (polled .ocrApp 1 (.ok 0x120 0 0 0)).running ∧
    (0xC0FF8000 : Word).getLsbD Params.default.ocrReadyBit = true :=
  ⟨⟨⟨rfl, default_wf, rfl⟩, rfl, fun h => by cases h⟩,
    ⟨⟨rfl, default_wf, rfl⟩, rfl, fun h => by cases h⟩, by decide,
    ⟨⟨rfl, default_wf, rfl⟩, rfl, fun h => by cases h⟩, by decide⟩

theorem witness_BestEffortStatesContinue (o : XOutcome) :
    (answered .voltage .voltageCheck (.xchg o)).running ∧
    (answered .scr .busWidthQuery (.xchg o)).running ∧
    (answered .scrApp .busWidthQuery (.xchg o)).running :=
  ⟨(answered_running _ _ _).1, (answered_running _ _ _).1, (answered_running _ _ _).1⟩

theorem witness_SessionRegistersRecorded (r0 r1 r2 r3 : Word) :
    (answered .identify .identify (.xchg (.ok r0 r1 r2 r3))).running ∧
    (answered .address .addressAssign (.xchg (.ok r0 r1 r2 r3))).running ∧
    (answered .csd .readCsd (.xchg (.ok r0 r1 r2 r3))).running ∧
    (answered .select .select (.xchg (.ok r0 r1 r2 r3))).running :=
  ⟨(answered_running _ _ _).1, (answered_running _ _ _).1, (answered_running _ _ _).1,
    (answered_running _ _ _).1⟩

theorem witness_StepRunsDecodedInstruction :
    (asked .clientop 1 5 2 512).inService ∧ (asked .clientop 1 5 2 512).isIdle = true ∧
      decode ⟨.clientop, 1, 5, 2, 512⟩ = .ok (.readBlock 5 ⟨2, 512⟩) ∧
      decodeTableWord 32 0x80008000 = some .goIdleState :=
  ⟨⟨rfl, default_wf, rfl⟩, rfl, rfl, by decide⟩

theorem witness_BusyRefusedFaultKept :
    ((phaseAt .ackRead .readBlock .ready).ph.phase ≠ .idle ∧
      (phaseAt .ackRead .readBlock .ready).ph.busy = true) ∧
    (let s := { asked .clientop 0 0 0 0 with ph := (phaseAt .ackRead .readBlock .ready).ph }
     s.inService ∧ s.isIdle = false ∧ s.port.isSome = true) ∧
    { State.reset with fault := some (.bufferOverrun 1) }.fault = some (.bufferOverrun 1) ∧
    (State.reset.inService ∧ State.reset.isIdle = true ∧ State.reset.port = none) ∧
    { phaseAt .pumpMove .readBlock .ready with resetLine := true }.resetLine = true ∧
    { State.reset with cfg := { Params.default with ocrRetryMax := 0 } }.cfg.wf = false :=
  ⟨by decide, ⟨⟨rfl, default_wf, rfl⟩, rfl, rfl⟩, rfl, ⟨⟨rfl, default_wf, rfl⟩, rfl, rfl⟩, rfl,
    by decide⟩

/-- A reachable step of INIT from a state that meets every invariant. -/
theorem witness_invariants :
    let s := asked .clientop 0 0 0 0
    SeqInv s ∧ OcrInv s ∧ PumpInv s ∧ TxnInv s ∧ s.mem.wf = true ∧ ∃ t, step s = .next t ∧
      t.ph.ps = .clockReset :=
  ⟨⟨rfl, rfl, rfl, by decide, rfl, rfl, fun h => absurd rfl h⟩,
    ⟨(fun h => by cases h), fun h => by cases h⟩,
    ⟨rfl, (fun h => by rcases h with h | h | h <;> cases h), (fun h => by cases h),
      fun h => by cases h⟩,
    ⟨(fun h => by cases h), (fun h => absurd rfl h), fun h => absurd rfl h⟩, rfl, _,
    step_runs (o := ⟨.clientop, 0, 0, 0, 0⟩) (i := .init) ⟨rfl, default_wf, rfl⟩ rfl rfl rfl, rfl⟩

/-- A pump of READ_BLOCK meets the pump and transfer invariants, with the cursor at its bound. -/
theorem witness_pump_invariants :
    let s := { draining .two with
      regs := { Regs.reset with blksiz := 512, bytcnt := 512 }
      wrk := { WorkRegs.reset with td := .read (.client 1) 64, cursor := 64 } }
    PumpInv s ∧ TxnInv s :=
  ⟨⟨by decide, fun _ => Nat.le_refl 64, (fun h => by cases h), fun _ h => by cases h⟩,
    ⟨(fun h => by cases h), (fun _ _ => ⟨by decide, by decide⟩), fun _ _ => rfl⟩⟩

theorem witness_FirstReadsAnswerAnything :
    { State.reset with resetLine := true }.resetLine = true ∧
      { State.reset with resetLine := true }.cfg.wf = true := ⟨rfl, default_wf⟩

/-- Storing a word of a read: the bytes next to it are outside what the step may store to. -/
theorem witness_MemoryFrame :
    let s := { draining .two with ph := (phaseAt .pumpMove .readBlock .ready).ph }
    ∃ t, step s = .next t ∧ ¬ mayStore s (512 + 8 * 62 - 1) ∧ ¬ mayStore s (512 + 8 * 63) := by
  refine ⟨_, step_running ⟨⟨rfl, draining_wf .two, rfl⟩, rfl, by decide⟩, ?_, ?_⟩
  all_goals
    rintro (⟨-, h, n, htd, h1, h2⟩ | ⟨hp, -⟩ | ⟨-, ⟨hp, -⟩ | hr, -⟩ | ⟨hi, -⟩)
    · injection htd with hd hn
      injection hd with hh
      subst hh
      revert h1 h2
      decide
    · cases hp
    · cases hp
    · cases hr
    · cases hi

/-- Under PumpInv the last byte of the buffer's last word changes. -/
theorem witness_MemoryFrame_inside :
    let s := { draining .two with
      ph := (phaseAt .pumpMove .readBlock .ready).ph
      env := { Env.reset with fifo := [0x1100000000000000], script := prompt 1 }
      wrk := { WorkRegs.reset with td := .read (.client 1) 64, cursor := 63 } }
    PumpInv s ∧ ∃ t, step s = .next t ∧ t.mem.read 1023 ≠ s.mem.read 1023 :=
  ⟨⟨by decide, (fun h => by rcases h with h | h | h <;> cases h), fun _ => by decide,
      fun h => by cases h⟩,
    _, step_running ⟨⟨rfl, draining_wf .two, rfl⟩, rfl, by decide⟩, by decide⟩

theorem witness_UnknownErrorNeverProduced :
    let s := { asked .cmdreg 0x80008000 0 0 0 with completion := some (.err .unknownError) }
    ∃ t, step s = .next t ∧ t.completion = some (.err .unknownError) :=
  ⟨_, step_runs (o := ⟨.cmdreg, 0x80008000, 0, 0, 0⟩) (i := .goIdleState) ⟨rfl, default_wf, rfl⟩
    rfl rfl rfl, rfl⟩

end Sys2Proof.Tests
end

