-- ==== Sys2Proof/Proofs/Scope.lean ====
section
/-! SUPPORT. Proofs of the statements of 00_scope.md: the data-bearing rows by themselves (R11), one allowed transaction
a step (R12), and the programming of every data transfer (R11). -/

namespace Sys2Proof.Machine

variable {s t u : State}

/-! ## The data-bearing rows by themselves -/

theorem accept_idle (h : s.isIdle = true) (u : State) : accept s u = .next u := if_pos h

theorem beginBlockRow_block {buf : Word} (h : s.bufferLength buf = blockBytes) (ctx : Ctx) (index : Word) :
    beginBlockRow ctx index buf s =
      startTxn ctx { s with wrk := { s.wrk with index := index, buf := buf }, result := none } :=
  if_neg (not_not.mpr h)

theorem beginBlockRow_badLength {buf : Word} (h : s.bufferLength buf ≠ blockBytes) (ctx : Ctx) (index : Word) :
    beginBlockRow ctx index buf s = raise (.contractViolation .bufferLength) s := if_pos h

/-- Settles O11: the row is accepted, and its length check decides between PROGRAM_TXN and the fault. -/
theorem dataCommandsStart : Obligations.DataCommandsStart := by
  refine ⟨fun s index buf hi hl => ⟨?_, ?_⟩, fun s index buf hi hl => ⟨?_, ?_⟩, fun s hi => accept_idle hi _⟩
  · exact (accept_idle hi _).trans (congrArg _ (beginBlockRow_block hl .readRow index))
  · exact (accept_idle hi _).trans (congrArg _ (beginBlockRow_block hl .writeRow index))
  · exact (accept_idle hi _).trans (congrArg _ (beginBlockRow_badLength hl .readRow index))
  · exact (accept_idle hi _).trans (congrArg _ (beginBlockRow_badLength hl .writeRow index))

/-! ## One transaction a step -/

/-- A phase loads only the eight registers of 40 R130. -/
theorem phaseLoad_mem {X : Reg} (h : phaseLoad s = some X) :
    X ∈ [Reg.ctrl, .cmd, .status, .rintsts, .resp0, .resp1, .resp2, .resp3] := by
  unfold phaseLoad at h
  split at h <;> cases h
  case h_1 w _ => cases w <;> simp [WaitFor.reg]
  all_goals decide

/-- A phase stores only to the nine registers of 40 R131. -/
theorem phaseStore_mem {X : Reg} {v : Word} (h : phaseStore s = some (X, v)) :
    X ∈ [Reg.ctrl, .clkdiv, .clkena, .ctype, .blksiz, .bytcnt, .cmdarg, .cmd, .rintsts] := by
  unfold phaseStore at h
  split at h <;> cases h <;> decide

theorem step_cfg (h : step s = .next t) : t.cfg = s.cfg := by
  cases step_ports h with
  | reboot _ h => exact h ▸ rfl
  | quiet h | chosen h | load _ _ h | loadChosen _ _ h | store _ _ _ h | drain _ h | fill _ _ h | clock h
  | delay _ h => exact h.cfg_eq

theorem step_lens (h : step s = .next t) : t.lens = s.lens := by
  cases step_ports h with
  | reboot _ h => exact h ▸ rfl
  | quiet h | chosen h | load _ _ h | loadChosen _ _ h | store _ _ _ h | drain _ h | fill _ _ h | clock h
  | delay _ h => exact h.lens_eq

/-- A step adds at most one transaction to the trace, and it is one the block may make (40 R131). -/
theorem step_trace (h : step s = .next t) :
    t.trace = s.trace ∨ ∃ x, t.trace = x :: s.trace ∧ allowedTxn s.cfg x := by
  cases step_ports h with
  | quiet h => exact .inl h.trace_eq
  | chosen h => exact .inl h.trace_eq
  | reboot _ h => exact .inl (h ▸ rfl)
  | load X hX h => exact .inr ⟨_, h.trace_eq, .inl ⟨rfl, X, phaseLoad_mem hX, rfl⟩⟩
  | loadChosen X hX h => exact .inr ⟨_, h.trace_eq, .inl ⟨rfl, X, phaseLoad_mem hX, rfl⟩⟩
  | store X v hX h => exact .inr ⟨_, h.trace_eq, .inl ⟨rfl, X, phaseStore_mem hX, rfl⟩⟩
  | drain _ h => exact .inr ⟨_, h.trace_eq, .inr ⟨rfl, rfl⟩⟩
  | fill v _ h => exact .inr ⟨_, h.trace_eq, .inr ⟨rfl, rfl⟩⟩
  | clock h => exact .inr ⟨_, h.trace_eq, trivial⟩
  | delay _ h => exact .inr ⟨_, h.trace_eq, trivial⟩

/-- The registers that neither the block nor the environment touches (00 R5), as one tuple. -/
def Regs.untouched (r : Regs) : Word × Word × Word × Word × Word :=
  (r.pwren, r.cdetect, r.bmod, r.dbaddrl, r.dbaddru)

theorem untouched_eq_iff (r q : Regs) : r.untouched = q.untouched ↔
    r.pwren = q.pwren ∧ r.cdetect = q.cdetect ∧ r.bmod = q.bmod ∧ r.dbaddrl = q.dbaddrl ∧
      r.dbaddru = q.dbaddru := by
  simp [Regs.untouched]

/-- A store to one of the nine registers the block writes. -/
theorem store_untouched {X : Reg} (r : Regs) (v : Word)
    (h : X ∈ [Reg.ctrl, .clkdiv, .clkena, .ctype, .blksiz, .bytcnt, .cmdarg, .cmd, .rintsts]) :
    (r.store X v).untouched = r.untouched := by
  simp only [List.mem_cons, List.not_mem_nil, or_false] at h
  rcases h with rfl | rfl | rfl | rfl | rfl | rfl | rfl | rfl | rfl <;> rfl

theorem step_untouched (hr : s.resetLine = false) (h : step s = .next t) :
    t.regs.untouched = s.regs.untouched := by
  cases step_ports h with
  | reboot h => cases hr.symm.trans h
  | store X v hX h => rw [h.regs_eq]; exact store_untouched _ v (phaseStore_mem hX)
  | quiet h | chosen h | load _ _ h | loadChosen _ _ h | drain _ h | fill _ _ h | clock h
  | delay _ h => exact (congrArg Regs.untouched h.regs_eq).trans rfl

/-- Settles O53, from the one effect a step has on the ports. -/
theorem oneTransactionPerStep : Obligations.OneTransactionPerStep := fun _ _ h =>
  ⟨step_trace h, step_cfg h, step_lens h, fun hr => (untouched_eq_iff _ _).mp (step_untouched hr h)⟩

/-! ## `data_expected` of an encoded command -/

theorem putField_bit {w : Nat} (lo k : Nat) (v : BitVec w) : (putField lo v).getLsbD k =
    (decide (k < 32) && (!decide (k < lo) && v.getLsbD (k - lo))) := by
  rw [putField, BitVec.getLsbD_shiftLeft, BitVec.getLsbD_setWidth]
  grind

/-- A bit outside a field is 0 in the field's term of `enc_T`. -/
theorem putField_bit_apart {w k lo : Nat} (v : BitVec w) (h : apart (k, 1) (lo, w) = true) :
    (putField lo v).getLsbD k = false := by
  simp only [apart, Bool.or_eq_true, decide_eq_true_eq] at h
  rw [putField_bit]
  rcases h with h | h
  · simp [show k < lo by omega]
  · simp [BitVec.getLsbD_of_ge v (k - lo) (by omega)]

theorem putField_bit_self {lo : Nat} (v : BitVec 1) (h : lo < 32) :
    (putField lo v).getLsbD lo = v.getLsbD 0 := by
  rw [putField_bit]; simp [h]

theorem apart_comm (p q : Nat × Nat) : apart p q = apart q p := by
  simp only [apart, Bool.or_comm]

theorem cmdDataExpected_eq (l : Layout) (v : Word) : cmdDataExpected l v = v.getLsbD l.cmd.dataExpected := by
  rw [Bool.eq_iff_iff]
  exact decide_eq_true_iff.trans (getField_one v l.cmd.dataExpected)

/-- The `data_expected` bit of `enc_CMD` is that field's alone, the fields being disjoint (30 R92). -/
theorem encCmd_dataExpected (l : Layout) (hl : rangesOk 32 l.rangesCmd = true) (f : CmdFields) :
    (encCmd l f).getLsbD l.cmd.dataExpected = f.dataExpected.getLsbD 0 := by
  simp only [rangesOk, Layout.rangesCmd, pairwiseApart, List.all_cons, List.all_nil, Bool.and_eq_true,
    decide_eq_true_eq, and_true] at hl
  obtain ⟨hin, ⟨-, -, -, hstart, -⟩, ⟨-, -, hcard, -⟩, ⟨-, hinit, -⟩, ⟨hdir, -⟩,
    ⟨hcrc, hlen, hexp, hidx⟩, -⟩ := hl
  rw [apart_comm] at hstart hcard hinit hdir
  simp only [encCmd, BitVec.getLsbD_or, putField_bit_apart _ hstart, putField_bit_apart _ hcard,
    putField_bit_apart _ hinit, putField_bit_apart _ hdir, putField_bit_apart _ hcrc,
    putField_bit_apart _ hlen, putField_bit_apart _ hexp, putField_bit_apart _ hidx,
    putField_bit_self f.dataExpected (lo := l.cmd.dataExpected) (by omega), Bool.false_or, Bool.or_false]

/-- `CMD_EXTRA_BITS` does not touch a named bit of CMD (41 R165). -/
theorem cmdExtraBits_dataExpected (p : Params) (hl : rangesOk 32 p.layout.rangesCmd = true)
    (he : p.extraBitsOk = true) : p.cmdExtraBits.getLsbD p.layout.cmd.dataExpected = false := by
  have hbit := congrArg (BitVec.getLsbD · p.layout.cmd.dataExpected) (beq_iff_eq.mp he)
  simp only [rangesOk, Layout.rangesCmd, List.all_cons, Bool.and_eq_true, decide_eq_true_eq] at hl
  have hown : (fieldMask p.layout.cmd.dataExpected 1).getLsbD p.layout.cmd.dataExpected = true :=
    putField_bit_self _ (by omega)
  simpa only [Layout.rangesCmd, rangesMask, BitVec.getLsbD_and, BitVec.getLsbD_or, hown, Bool.true_or,
    Bool.or_true, Bool.and_true, BitVec.ofNat_eq_ofNat, BitVec.getLsbD_zero] using hbit

theorem cmdFields_of_wf {p : Params} (h : p.wf = true) :
    rangesOk 32 p.layout.rangesCmd = true ∧ p.extraBitsOk = true := by
  simp only [Params.wf, Layout.wf, Bool.and_eq_true] at h
  tauto

/-- The value of a card command carries a data phase exactly when its policy says so (41 R166). -/
theorem cmdDataExpected_cardValue {p : Params} (h : p.wf = true) (c : CardCmd) :
    cmdDataExpected p.layout (cardValue p c) = c.fields.dataExpected.getLsbD 0 := by
  obtain ⟨hl, he⟩ := cmdFields_of_wf h
  rw [cmdDataExpected_eq, cardValue, BitVec.getLsbD_or, encCmd_dataExpected _ hl,
    cmdExtraBits_dataExpected p hl he, Bool.or_false]

/-! ## Where an exchange goes -/

/-- `t` has no exchange running but the one of `s`, and PROGRAM_TXN does not wait for its second write. -/
structure Follows (t s : State) : Prop where
  runs : t.ph.xstep ≠ 0 → s.ph.xstep ≠ 0 ∧ t.ph.ctx = s.ph.ctx ∧ t.wrk.cmdval = s.wrk.cmdval
  phase_ne : t.ph.phase ≠ .byteCount

/-- What a step does to the exchange in progress (42 R170, 45 R258). -/
inductive XchgEffect (s t : State) : Prop
  /-- None begins. -/
  | follows (h : Follows t s)
  /-- One without a data phase begins. -/
  | plain (hd : cmdDataExpected t.cfg.layout t.wrk.cmdval = false) (hc : t.ph.ctx.forData = false)
    (hp : t.ph.phase ≠ .byteCount)
  /-- PROGRAM_TXN has written BLKSIZ. -/
  | sizing (hp : s.ph.phase = .blockSize) (h : t = programSize s)
  /-- PROGRAM_TXN has written BYTCNT, and the exchange it prepared begins. -/
  | counting (hp : s.ph.phase = .byteCount) (h : t = programCount s)

/-- `u` differs from `s` in nothing that says which exchange runs. -/
theorem Follows.congr (h : Follows t u) (hph : u.ph = s.ph) (hcmd : u.wrk.cmdval = s.wrk.cmdval) :
    Follows t s := ⟨fun ht => by simpa only [hph, hcmd] using h.runs ht, h.phase_ne⟩

theorem follows_of_xstep_zero (h0 : t.ph.xstep = 0) (hp : t.ph.phase ≠ .byteCount) : Follows t s :=
  ⟨fun ht => absurd h0 ht, hp⟩

theorem follows_finish (r : OpResult) : Follows (finish r u) s :=
  follows_of_xstep_zero rfl (by simp only [finish_ph]; split <;> simp)

theorem follows_complete (c : Completion) : Follows (complete c u) s := follows_of_xstep_zero rfl (by simp)

theorem follows_goto {p : Phase} (hp : p ≠ .byteCount) : Follows (s.goto p) s :=
  ⟨fun h => ⟨h, rfl, rfl⟩, hp⟩

/-- The exchange goes on at another place. -/
theorem follows_gotoStep (hs : s.ph.xstep ≠ 0) {k : Fin 9} {p : Phase} (hp : p ≠ .byteCount) :
    Follows (s.gotoStep k p) s := ⟨fun _ => ⟨hs, rfl, rfl⟩, hp⟩

section Engine
variable (hs : s.ph.xstep ≠ 0)
include hs

theorem follows_enterStep5 : Follows (enterStep5 s) s := by
  unfold enterStep5; split <;> exact follows_gotoStep hs (by simp)

theorem follows_enterStep4 : Follows (enterStep4 s) s := by
  unfold enterStep4; split
  · exact follows_gotoStep hs (by simp)
  · exact follows_enterStep5 hs

theorem follows_pumpExit : Follows (pumpExit s) s := by
  unfold pumpExit; split
  · exact follows_gotoStep hs (by simp)
  · exact follows_goto (by simp)

theorem follows_pumpMore : Follows (pumpMore s) s := by
  unfold pumpMore; split
  · exact follows_pumpExit hs
  · exact follows_goto (by simp)
  · split
    · exact follows_goto (by simp)
    · exact follows_pumpExit hs

theorem follows_pumpCounted (hp : s.ph.phase ≠ .byteCount) (n : Nat) : Follows (pumpCounted n s) s := by
  unfold pumpCounted; split
  · exact follows_pumpExit hs
  · split
    · split
      · exact ⟨fun _ => ⟨hs, rfl, rfl⟩, hp⟩
      · exact follows_goto (by simp)
    · exact follows_pumpExit hs
  · split
    · exact follows_goto (by simp)
    · exact follows_pumpExit hs

theorem follows_pumpSnapshot : Follows (pumpSnapshot s) s := by
  unfold pumpSnapshot; split
  · exact .congr (follows_pumpMore hs) rfl rfl
  · exact .congr (follows_pumpExit hs) rfl rfl

theorem follows_pumpMove : Follows (pumpMove s) s := by
  unfold pumpMove; split
  · exact follows_pumpExit hs
  · exact .congr (follows_pumpMore hs) rfl rfl
  · exact .congr (follows_pumpMore hs) rfl rfl

end Engine

theorem follows_pumpBegin (h : pumpBegin s = .next t) : Follows t s := by
  unfold pumpBegin at h
  split at h <;> cases h
  exact (follows_goto (by simp)).congr rfl rfl

theorem follows_pumpDeadline : Follows (pumpDeadline s) s := by
  unfold pumpDeadline; split
  · exact follows_finish _
  · exact (follows_goto (by simp)).congr rfl rfl

/-- A met wait of an exchange goes on to a later step of it; one of a pulse or a reset request returns. -/
theorem follows_waitMet {w : WaitFor} (hw : s.ph.xstep = (Phase.wait w .poll).xstep) :
    Follows (waitMet w s) s := by
  cases w with
  | ready =>
    have hs : s.ph.xstep ≠ 0 := by rw [hw]; decide
    simp only [waitMet]; split
    · exact follows_goto (by simp)
    · exact follows_gotoStep hs (by simp)
  | notBusy => exact follows_gotoStep (by rw [hw]; decide) (by simp)
  | accepted => exact follows_enterStep4 (by rw [hw]; decide)
  | done => exact follows_enterStep5 (by rw [hw]; decide)
  | pulse => exact follows_finish _
  | reset f => exact follows_finish _

theorem follows_waitExpired (w : WaitFor) : Follows (waitExpired w u) s := by
  cases w <;> exact follows_finish _

theorem follows_waitStep {w : WaitFor} {stage : WaitStage}
    (hw : s.ph.xstep = (Phase.wait w stage).xstep) : Follows (waitStep w stage s) s := by
  cases stage with
  | start => exact (follows_goto (by simp)).congr rfl rfl
  | poll =>
    simp only [waitStep, waitPoll]; split
    · exact .congr (follows_waitMet hw) rfl rfl
    · exact (follows_goto (by simp)).congr rfl rfl
  | check =>
    simp only [waitStep, waitCheck]; split
    · exact follows_waitExpired w
    · exact (follows_goto (by simp)).congr rfl rfl

/-! ## Where an exchange begins -/

/-- An exchange whose command has no data phase by its policy (41 R151) begins for something that needs none. -/
theorem plain_startXchg {c : CardCmd} {a : Word} {d : Descriptor} {x : Ctx} (hw : u.cfg.wf = true)
    (hc : c.fields.dataExpected = 0) (hx : x.forData = false) : XchgEffect s (startXchg c a d x u) :=
  .plain (by rw [startXchg_cfg, startXchg_wrk, cmdDataExpected_cardValue hw, hc]; rfl) hx (by simp)

theorem follows_failInit : Follows (failInit u) s := follows_complete _

theorem follows_ocrRetry : Follows (ocrRetry s) s := by
  unfold ocrRetry; split
  · exact follows_failInit
  · exact follows_goto (by simp)

/-- What INIT and the block operations do when an exchange, pulse or reset request has returned. -/
theorem resume_exchange (hw : s.cfg.wf = true) (h0 : s.ph.xstep = 0) : XchgEffect s (resume s) := by
  cases hc : s.ph.ctx with simp only [resume, hc]
  | bare | readRow | writeRow | scrRow => exact .follows (follows_goto (by simp))
  | pulseOff =>
    unfold afterPulseOff; split
    · exact .follows (follows_goto (by simp))
    · exact .follows follows_failInit
  | pulseOn =>
    unfold afterPulseOn; split
    · exact .follows (follows_of_xstep_zero h0 (by simp))
    · exact .follows follows_failInit
  | fifoReset =>
    unfold afterFifoReset; split
    · exact .follows (follows_of_xstep_zero h0 (by simp))
    · exact .follows follows_failInit
  | dmaReset =>
    unfold afterDmaReset; split
    · exact plain_startXchg hw rfl rfl
    · exact .follows follows_failInit
  | goIdle | identify | address | csd | select =>
    simp only [afterGoIdle, afterIdentify, afterAddress, afterCsd, afterSelect]
    split
    · exact plain_startXchg hw rfl rfl
    · exact .follows follows_failInit
    · exact .follows follows_failInit
  | voltage => exact plain_startXchg hw rfl rfl
  | ocrApp =>
    unfold afterOcrApp; split
    · exact plain_startXchg hw rfl rfl
    · exact .follows follows_ocrRetry
    · exact .follows follows_ocrRetry
  | ocrCond =>
    unfold afterOcrCond; split
    · split
      · exact plain_startXchg hw rfl rfl
      · exact .follows follows_ocrRetry
    · exact .follows follows_ocrRetry
    · exact .follows follows_ocrRetry
  | scrApp =>
    unfold afterScrApp; split
    · exact .follows (follows_of_xstep_zero h0 (by simp))
    · exact .follows (follows_complete _)
    · exact .follows (follows_complete _)
  | scr => exact .follows (follows_complete _)
  | readBlock | writeBlock =>
    simp only [afterReadBlock, afterWriteBlock]
    split <;> exact .follows (follows_complete _)

/-- One step of an operation in progress. -/
theorem advance_exchange (hw : s.cfg.wf = true) (hx : s.ph.xstep = s.ph.phase.xstep)
    (h : advance s = .next t) : XchgEffect s t := by
  unfold advance at h
  cases hp : s.ph.phase with rw [hp] at h hx
  | pumpStart => exact .follows (follows_pumpBegin h)
  | idle => cases h; exact .follows ⟨fun h => ⟨h, rfl, rfl⟩, by simp [hp]⟩
  | wait w stage => cases h; exact .follows (follows_waitStep hx)
  | pumpSnap => cases h; exact .follows (follows_pumpSnapshot (by rw [hx]; decide))
  | pumpCount =>
    cases h
    exact .follows ((follows_pumpCounted (s := readReg .status s) (by rw [readReg_ph, hx]; decide)
      (by simp [hp]) _).congr rfl rfl)
  | pumpMove => cases h; exact .follows (follows_pumpMove (by rw [hx]; decide))
  | pumpTime => cases h; exact .follows follows_pumpDeadline
  | classify => cases h; exact .follows (follows_finish _)
  | writeArg | ackRead | readResp0 | readResp1 | readResp2 | pulseWrite | resetRead f | resetWrite f
  | clockDivide => cases h; exact .follows ((follows_goto (by simp)).congr rfl rfl)
  | writeCmd | ackWrite | readResp3 =>
    cases h
    have hs : s.ph.xstep ≠ 0 := by rw [hx]; decide
    exact .follows ⟨fun _ => ⟨hs, rfl, rfl⟩, by simp [submitCmd, ackWrite, respond3]⟩
  | clockOff | clockOn | busWidth =>
    cases h
    exact .follows (follows_of_xstep_zero hx (by simp [clockOff, clockOn, busWidth]))
  | sleep => cases h; exact plain_startXchg hw rfl rfl
  | blockSize => cases h; exact .sizing hp rfl
  | byteCount => cases h; exact .counting hp rfl
  | returned => cases h; exact resume_exchange hw hx

theorem exec_idle {i : Instr} (h : exec i s = .next t) : s.ph.phase = .idle := by
  have hi : s.isIdle = true := by cases i <;> exact (accept_next h).1
  exact (isIdle_iff.mp hi).1

/-- The acceptance of an operation: an exchange begins only for a command row without a data phase. -/
theorem exec_exchange {i : Instr} (hw : s.cfg.wf = true) (hx : s.ph.xstep = s.ph.phase.xstep)
    (h : exec i s = .next t) : XchgEffect s t := by
  have hp : s.ph.phase = .idle := exec_idle h
  have h0 : s.ph.xstep = 0 := hx.trans (by rw [hp]; rfl)
  cases i with obtain ⟨-, rfl⟩ := accept_next h
  | goIdleState | allSendCid | sendRelativeAddr | selectCard | sendIfCond | sendCsd | sdSendOpCond
  | appCmd arg => exact plain_startXchg hw rfl rfl
  | commitClk | sendScr => exact .follows (follows_of_xstep_zero h0 (by simp))
  | readSingleBlock index buf | writeSingleBlock index buf =>
    unfold beginBlockRow; split <;> exact .follows (follows_of_xstep_zero h0 (by simp [hp]))
  | init => unfold beginInit; split <;> exact .follows (follows_of_xstep_zero h0 (by simp [hp]))
  | readBlock index buf =>
    unfold beginReadBlock; split
    · exact .follows (follows_of_xstep_zero h0 (by simp [hp]))
    · split
      · exact .follows (follows_complete _)
      · exact .follows (follows_of_xstep_zero h0 (by simp))
  | writeBlock index buf =>
    unfold beginWriteBlock; split
    · exact .follows (follows_of_xstep_zero h0 (by simp [hp]))
    · split
      · exact .follows (follows_complete _)
      · exact .follows (follows_of_xstep_zero h0 (by simp))

/-- Everything a step can do to the exchange in progress, the step register being the phase's (10 R41). -/
theorem step_exchange (hx : s.ph.xstep = s.ph.phase.xstep) (h : step s = .next t) : XchgEffect s t := by
  obtain ⟨-, rfl⟩ | ⟨-, hi, -, rfl⟩ | ⟨⟨-, hw, -⟩, -, o, i, -, -, h⟩ | ⟨-, hi, o, f, -, -, rfl⟩ |
    ⟨⟨-, hw, -⟩, -, -, h⟩ := step_next_cases h
  · exact .follows (follows_of_xstep_zero rfl (by simp [PhaseRegs.reset]))
  · exact .follows ⟨fun h => ⟨h, rfl, rfl⟩, by simp [(isIdle_iff.mp hi).1]⟩
  · have hidle : s.ph.phase = .idle := exec_idle (s := takeRequest s) h
    cases exec_exchange (s := takeRequest s) hw hx h with
    | follows h => exact .follows (h.congr rfl rfl)
    | plain hd hc hp => exact .plain hd hc hp
    | sizing hp | counting hp => cases hidle.symm.trans hp
  · exact .follows ⟨fun h => ⟨h, rfl, rfl⟩, by simp [(isIdle_iff.mp hi).1]⟩
  · exact advance_exchange hw hx h

/-! ## The sizes of a transfer (00 R11, 45 R258) -/

/-- Away from PROGRAM_TXN a step leaves both size registers alone, but for a reset of the block (10 R49). -/
theorem step_sizes (h : step s = .next t) (hr : t ≠ blockReset s) (hb : s.ph.phase ≠ .blockSize)
    (hc : s.ph.phase ≠ .byteCount) : t.regs.blksiz = s.regs.blksiz ∧ t.regs.bytcnt = s.regs.bytcnt := by
  cases step_ports h with
  | reboot _ h => exact absurd h hr
  | store X v hX h =>
    rw [h.regs_eq]
    unfold phaseStore at hX
    split at hX <;> cases hX
    case h_10 hp => exact absurd hp hb
    case h_11 hp => exact absurd hp hc
    all_goals exact ⟨rfl, rfl⟩
  | quiet h | chosen h | load _ _ h | loadChosen _ _ h | drain _ h | fill _ _ h | clock h
  | delay _ h => rw [h.regs_eq]; exact ⟨rfl, rfl⟩

theorem programmed_congr (hcfg : t.cfg = s.cfg) (hctx : t.ph.ctx = s.ph.ctx)
    (hregs : t.regs.blksiz = s.regs.blksiz ∧ t.regs.bytcnt = s.regs.bytcnt) (h : programmed s) :
    programmed t := by
  obtain ⟨hb, hc⟩ := hregs
  rwa [programmed, hcfg, hctx, hb, hc]

/-- The exchange that PROGRAM_TXN starts runs for what PROGRAM_TXN ran for. -/
theorem startData_ctx (hd : s.ph.ctx.forData = true) : (startData s).ph.ctx = s.ph.ctx := by
  cases hc : s.ph.ctx with rw [hc] at hd
  | scr | readBlock | writeBlock | readRow | writeRow | scrRow => simp [startData, hc]
  | bare | pulseOff | pulseOn | fifoReset | dmaReset | goIdle | voltage | ocrApp | ocrCond | identify
  | address | csd | select | scrApp => cases hd

/-- PROGRAM_TXN ends with both sizes written, where BLKSIZ already was. -/
theorem programCount_programmed (hctx : (programCount s).ph.ctx = s.ph.ctx)
    (h : s.regs.blksiz = encBlksiz s.cfg.layout { blockSize := BitVec.ofNat 16 (txnBytes s.ph.ctx) }) :
    programmed (programCount s) := by
  have ha : PortsAgree (programCount s) (writeReg .bytcnt
      (encBytcnt s.cfg.layout { byteCount := BitVec.ofNat 32 (txnBytes s.ph.ctx) }) s) := agree_startData
  rw [programmed, ha.cfg_eq, ha.regs_eq, hctx]
  exact ⟨h, rfl⟩

/-- Settles O50: an exchange that goes on keeps its sizes, and one begins either without a data phase or right after
PROGRAM_TXN has written both. -/
theorem transfersAreProgrammed : Obligations.TransfersAreProgrammed := by
  intro s t hs hi h
  obtain ⟨hsized, hmatch, hdata⟩ := hi
  cases step_exchange hs.xstep_eq h with
  | follows hf =>
    by_cases ht : t.ph.xstep = 0
    · exact ⟨fun h => absurd h hf.phase_ne, fun h => absurd ht h, fun h => absurd ht h⟩
    · obtain ⟨hsx, hctx, hcmd⟩ := hf.runs ht
      have hcfg : t.cfg = s.cfg := step_cfg h
      have hregs := step_sizes h (fun hr => ht (hr ▸ rfl))
        (fun hp => hsx (hs.xstep_eq.trans (by rw [hp]; rfl)))
        (fun hp => hsx (hs.xstep_eq.trans (by rw [hp]; rfl)))
      exact ⟨fun h => absurd h hf.phase_ne,
        fun _ hfor => programmed_congr hcfg hctx hregs (hmatch hsx (hctx ▸ hfor)),
        fun _ hexp => hctx ▸ hdata hsx (by rwa [hcfg, hcmd] at hexp)⟩
  | plain hd hc hp =>
    exact ⟨fun h => absurd h hp, fun _ h => absurd (hc.symm.trans h) (by simp),
      fun _ h => absurd (hd.symm.trans h) (by simp)⟩
  | sizing hp ht =>
    subst ht
    have h0 : s.ph.xstep = 0 := hs.xstep_eq.trans (by rw [hp]; rfl)
    exact ⟨fun _ => rfl, fun h => absurd h0 h, fun h => absurd h0 h⟩
  | counting hp ht =>
    subst ht
    have hfor : s.ph.ctx.forData = true := by simpa [hp, phaseFits] using hs.phase_fits
    have hctx : (programCount s).ph.ctx = s.ph.ctx := startData_ctx hfor
    have hprog := programCount_programmed hctx (hsized hp)
    exact ⟨fun _ => hprog.1, fun _ _ => hprog, fun _ _ => by rw [hctx, hfor]⟩

end Sys2Proof.Machine
end

