-- ==== Sys2Proof/Proofs/State.lean ====
section
/-! SUPPORT. Proofs of the statements of 10_state.md: the sequencing registers agree at every step (R41, R42), and what
reset leaves (R48, R49). -/

namespace Sys2Proof.Machine

variable {s t u : State}

/-! ## What the sequencing invariant reads -/

/-- The part of the state the sequencing invariant speaks of. -/
def State.seqView (s : State) : PhaseRegs × Bool × Word × Params × Option Fault :=
  (s.ph, s.ses.usable, s.wrk.cmdval, s.cfg, s.fault)

theorem seqView_eq_iff : t.seqView = u.seqView ↔ t.ph = u.ph ∧ t.ses.usable = u.ses.usable ∧
    t.wrk.cmdval = u.wrk.cmdval ∧ t.cfg = u.cfg ∧ t.fault = u.fault := by
  simp [State.seqView]

/-- Transactions, and every register but those of `seqView`, do not matter to the invariant. -/
theorem SeqInv.congr (h : SeqInv u) (hv : t.seqView = u.seqView := by rfl) : SeqInv t := by
  obtain ⟨hph, hses, hcmd, hcfg, hfault⟩ := seqView_eq_iff.mp hv
  obtain ⟨h1, h2, h3, h4, h5, h6, h7⟩ := h
  exact ⟨by rwa [hph], by rwa [hph], by rwa [hph], by rwa [hph], by rwa [hph, hfault], by rwa [hses, hph],
    by rwa [hph, hcmd, hcfg]⟩

/-- The invariant holds of the reset values of the block's own registers (R48). -/
theorem seqInv_of_reset (hph : t.ph = PhaseRegs.reset) (hses : t.ses = SessionRegs.reset)
    (hf : t.fault = none) : SeqInv t :=
  ⟨by rw [hph]; rfl, by rw [hph]; rfl, by rw [hph]; rfl, by rw [hph]; decide, by rw [hph, hf]; rfl,
    by rw [hses, hph]; rfl, fun h => absurd (by rw [hph]; rfl) h⟩

/-! ## Which phases, contexts and protocol states fit -/

/-- A phase inside an exchange fits whatever an exchange can run for. -/
theorem phaseFits_exchange {p : Phase} (hp : p.xstep ≠ 0) (c : Ctx) : phaseFits c p = c.forXchg := by
  cases p with
  | wait w stage =>
    cases w with
    | ready | notBusy | accepted | done => rfl
    | pulse | reset f => exact absurd rfl hp
  | writeArg | writeCmd | pumpStart | pumpSnap | pumpCount | pumpMove | pumpTime | ackRead | ackWrite
  | readResp0 | readResp1 | readResp2 | readResp3 | classify => rfl
  | idle | pulseWrite | resetRead f | resetWrite f | clockOff | clockDivide | clockOn | busWidth | sleep
  | blockSize | byteCount | returned => exact absurd rfl hp

theorem ne_busWidth_of_xstep {p : Phase} (hp : p.xstep ≠ 0) : p ≠ .busWidth := by
  rintro rfl
  exact hp rfl

/-- The places inside a bounded wait fit the same contexts and belong to the same step. -/
theorem wait_stage_irrelevant (w : WaitFor) (stage stage' : WaitStage) (c : Ctx) :
    phaseFits c (.wait w stage) = phaseFits c (.wait w stage') ∧
      (Phase.wait w stage).xstep = (Phase.wait w stage').xstep := by
  cases w <;> exact ⟨rfl, rfl⟩

theorem stateFits_alone {c : Ctx} (hc : c.alone = true) (q : PState) : stateFits q c = q.settled := by
  cases c with
  | bare | readRow | writeRow | scrRow => rfl
  | pulseOff | pulseOn | fifoReset | dmaReset | goIdle | voltage | ocrApp | ocrCond | identify | address
  | csd | select | scrApp | scr | readBlock | writeBlock => cases hc

/-- BusWidthInit belongs to the FIFO reset's context alone. -/
theorem stateFits_width {c : Ctx} (h : stateFits .busWidthInit c = true) : c = .fifoReset := by
  cases c with
  | fifoReset => rfl
  | bare | readRow | writeRow | scrRow | pulseOff | pulseOn | dmaReset | goIdle | voltage | ocrApp | ocrCond
  | identify | address | csd | select | scrApp | scr | readBlock | writeBlock => cases h

/-! ## Going on inside an operation -/

/-- Going on outside an exchange, to a phase that fits the same contexts. -/
theorem SeqInv.goto {p q : Phase} (h : SeqInv s) (hq : s.ph.phase = q) (hx : p.xstep = q.xstep := by rfl)
    (hfit : phaseFits s.ph.ctx p = phaseFits s.ph.ctx q := by rfl) (hqw : q ≠ .busWidth := by simp)
    (hpw : p ≠ .busWidth := by simp) : SeqInv (s.goto p) := by
  subst hq
  exact ⟨h.xstep_eq.trans hx.symm, hfit.trans h.phase_fits, h.state_fits,
    iff_of_false (fun hs => hqw (h.width_state.mp hs)) hpw, h.busy_eq, h.usable_eq, h.encoded⟩

theorem SeqInv.phase_xstep (h : SeqInv s) (hs : s.ph.xstep ≠ 0) : s.ph.phase.xstep ≠ 0 :=
  fun h0 => hs (h.xstep_eq.trans h0)

/-- The exchange in progress goes on at any other of its places. -/
theorem SeqInv.gotoStep {k : Fin 9} {p : Phase} (h : SeqInv s) (hs : s.ph.xstep ≠ 0)
    (hp : p.xstep = k := by rfl) (hk : k ≠ 0 := by decide) : SeqInv (s.gotoStep k p) := by
  subst hp
  have hs' := h.phase_xstep hs
  exact ⟨rfl, (phaseFits_exchange hk _).trans ((phaseFits_exchange hs' _).symm.trans h.phase_fits),
    h.state_fits,
    iff_of_false (fun hq => ne_busWidth_of_xstep hs' (h.width_state.mp hq)) (ne_busWidth_of_xstep hk),
    h.busy_eq, h.usable_eq, fun _ => h.encoded hs⟩

/-- The same step of the exchange goes on at another place. -/
theorem SeqInv.gotoSame {p : Phase} (h : SeqInv s) (hs : s.ph.xstep ≠ 0) (hp : p.xstep = s.ph.xstep) :
    SeqInv (s.goto p) := h.gotoStep hs (k := s.ph.xstep) hp hs

theorem finish_ph_alone (ha : s.ph.ctx.alone = true) (r : OpResult) :
    (finish r s).ph = { s.ph with xstep := 0, phase := .idle, ctx := .bare } := by
  simp only [finish_ph, ha, if_true]

theorem finish_ph_client (ha : s.ph.ctx.alone = false) (r : OpResult) :
    (finish r s).ph = { s.ph with xstep := 0, phase := .returned } := by
  simp only [finish_ph, ha, Bool.false_eq_true, if_false]

/-- What was started has returned: a row by itself to nothing, anything else to its client operation. -/
theorem SeqInv.finish {r : OpResult} (h : SeqInv s) (hs : s.ph.phase ≠ .busWidth) : SeqInv (finish r s) := by
  have hq : s.ph.ps ≠ .busWidthInit := fun hq => hs (h.width_state.mp hq)
  cases ha : s.ph.ctx.alone with
  | true =>
    have hph := finish_ph_alone ha r
    have hfits := h.state_fits
    have hbusy := h.busy_eq
    rw [stateFits_alone ha] at hfits
    rw [ha] at hbusy
    exact ⟨by rw [hph]; rfl, by rw [hph]; rfl, by rw [hph]; exact hfits,
      by rw [hph]; exact iff_of_false hq (by simp), by rw [hph]; exact hbusy, by rw [hph]; exact h.usable_eq,
      fun hx => absurd rfl hx⟩
  | false =>
    have hph := finish_ph_client ha r
    exact ⟨by rw [hph]; rfl, by rw [hph]; simp [phaseFits, ha], by rw [hph]; exact h.state_fits,
      by rw [hph]; exact iff_of_false hq (by simp), by rw [hph]; exact h.busy_eq, by rw [hph]; exact h.usable_eq,
      fun hx => absurd rfl hx⟩

/-- A raised fault leaves `busy` set and everything else in place (60 R272). -/
theorem SeqInv.raise {f : Fault} (h : SeqInv s) : SeqInv (raise f s) :=
  ⟨h.xstep_eq, h.phase_fits, h.state_fits, h.width_state, rfl, h.usable_eq, h.encoded⟩

/-! ## Starting an exchange, a pulse, a reset request, a transfer -/

/-- The unfaulted block is set up to run something for `c`. -/
structure RunsFor (s : State) (c : Ctx) : Prop where
  fault_none : s.fault = none
  busy_eq : s.ph.busy = !c.alone
  usable_eq : s.ses.usable = (s.ph.ps == .ready)
  state_fits : stateFits s.ph.ps c = true

theorem RunsFor.ne_width {c : Ctx} (h : RunsFor s c) (hc : c ≠ .fifoReset) : s.ph.ps ≠ .busWidthInit :=
  fun hq => hc (stateFits_width (hq ▸ h.state_fits))

theorem RunsFor.startXchg {c : Ctx} {cmd : CardCmd} {a : Word} {d : Descriptor} (h : RunsFor s c)
    (hc : c.forXchg = true := by rfl) : SeqInv (startXchg cmd a d c s) :=
  ⟨rfl, hc, h.state_fits, iff_of_false (h.ne_width (by rintro rfl; cases hc)) (by simp),
    by simp [h.fault_none, h.busy_eq], h.usable_eq, fun _ => ⟨cmd, rfl⟩⟩

section Started
variable {c : Ctx} {f : ResetBit} (h : RunsFor s c) (h0 : s.ph.xstep = 0)
include h h0

theorem RunsFor.issueCommitClk (hc : c.forPulse = true := by rfl) : SeqInv (issueCommitClk c s) :=
  ⟨h0, hc, h.state_fits, iff_of_false (h.ne_width (by rintro rfl; cases hc)) (by simp),
    by simp [h.fault_none, h.busy_eq], h.usable_eq, fun hx => absurd h0 hx⟩

theorem RunsFor.startTxn (hc : c.forData = true := by rfl) : SeqInv (startTxn c s) :=
  ⟨h0, hc, h.state_fits, iff_of_false (h.ne_width (by rintro rfl; cases hc)) (by simp),
    by simp [h.fault_none, h.busy_eq], h.usable_eq, fun hx => absurd h0 hx⟩

theorem RunsFor.startReset (hq : s.ph.ps ≠ .busWidthInit) (hc : c = resetCtx f := by rfl) :
    SeqInv (startReset f c s) :=
  ⟨h0, beq_iff_eq.mpr hc, h.state_fits, iff_of_false hq (by simp),
    by simp [h.fault_none, h.busy_eq], h.usable_eq, fun hx => absurd h0 hx⟩

end Started

/-- A completion leaves the block idle in a settled protocol state (45 R250). -/
theorem seqInv_complete {c : Completion} (hf : s.fault = none) (hu : s.ses.usable = (s.ph.ps == .ready))
    (hq : s.ph.ps.settled = true) : SeqInv (complete c s) :=
  ⟨rfl, rfl, hq, iff_of_false (fun hw => by rw [show s.ph.ps = .busWidthInit from hw] at hq; cases hq) (by simp),
    by simp [hf, Ctx.alone], hu, fun hx => absurd rfl hx⟩

theorem seqInv_failInit (hf : s.fault = none) : SeqInv (failInit s) :=
  seqInv_complete hf rfl rfl

theorem seqInv_becomeReady (hf : s.fault = none) : SeqInv (becomeReady s) :=
  seqInv_complete hf rfl rfl

theorem SeqInv.runsFor (h : SeqInv s) (hf : s.fault = none) : RunsFor s s.ph.ctx :=
  ⟨hf, by simpa [hf] using h.busy_eq, h.usable_eq, h.state_fits⟩

theorem RunsFor.congr {c : Ctx} (h : RunsFor u c) (hv : t.seqView = u.seqView := by rfl) : RunsFor t c := by
  obtain ⟨hph, hses, -, -, hfault⟩ := seqView_eq_iff.mp hv
  obtain ⟨h1, h2, h3, h4⟩ := h
  exact ⟨by rwa [hfault], by rwa [hph], by rwa [hses, hph], by rwa [hph]⟩

/-- What runs is a part of INIT. -/
def Ctx.forInit (c : Ctx) : Bool := !c.alone && c != .readBlock && c != .writeBlock

theorem alone_of_forInit {c : Ctx} (hc : c.forInit = true) : c.alone = false := by
  simp only [Ctx.forInit, Bool.and_eq_true, Bool.not_eq_true'] at hc
  obtain ⟨⟨ha, -⟩, -⟩ := hc
  exact ha

/-- INIT does not run in Ready. -/
theorem ne_ready_of_forInit {c : Ctx} {q : PState} (hc : c.forInit = true) (h : stateFits q c = true) :
    q ≠ .ready := by
  rintro rfl
  cases c with
  | bare | readRow | writeRow | scrRow | readBlock | writeBlock => cases hc
  | pulseOff | pulseOn | fifoReset | dmaReset | goIdle | voltage | ocrApp | ocrCond | identify | address
  | csd | select | scrApp | scr => cases h

/-- INIT goes on in state `q` with something for `x`. -/
theorem RunsFor.enter {c x : Ctx} {q : PState} (h : RunsFor s c) (hq : stateFits q x = true := by rfl)
    (hc : c.forInit = true := by rfl) (hx : x.forInit = true := by rfl) : RunsFor (s.enter q) x := by
  have hs := beq_eq_false_iff_ne.mpr (ne_ready_of_forInit hc h.state_fits)
  have ht := beq_eq_false_iff_ne.mpr (ne_ready_of_forInit hx hq)
  exact ⟨h.fault_none, h.busy_eq.trans (by rw [alone_of_forInit hc, alone_of_forInit hx]),
    h.usable_eq.trans (hs.trans ht.symm), hq⟩

/-- INIT goes on in state `q` with an exchange for `x`. -/
theorem RunsFor.initExchange {c x : Ctx} {q : PState} {cmd : CardCmd} {a : Word} {d : Descriptor}
    (h : RunsFor s c) (hu : u.seqView = (s.enter q).seqView := by rfl) (hq : stateFits q x = true := by rfl)
    (hc : c.forInit = true := by rfl) (hx : x.forInit = true := by rfl) (hxchg : x.forXchg = true := by rfl) :
    SeqInv (Machine.startXchg cmd a d x u) := ((h.enter hq hc hx).congr hu).startXchg hxchg

/-! ## The transfer engine -/

section Exchange
variable (h : SeqInv s) (hs : s.ph.xstep ≠ 0)
include h hs

theorem seqInv_enterStep5 : SeqInv (enterStep5 s) := by
  unfold enterStep5; split <;> exact h.gotoStep hs

theorem seqInv_enterStep4 : SeqInv (enterStep4 s) := by
  unfold enterStep4; split
  · exact h.gotoStep hs
  · exact seqInv_enterStep5 h hs

end Exchange

section Pump
variable {p : Phase} {n : Nat} (h : SeqInv s) (hs : s.ph.xstep = 5)
include h hs

/-- A pump goes on at another place of step 5. -/
theorem seqInv_pump (hp : p.xstep = 5 := by rfl) : SeqInv (s.goto p) :=
  h.gotoSame (by rw [hs]; decide) (hp.trans hs.symm)

theorem seqInv_pumpExit : SeqInv (pumpExit s) := by
  unfold pumpExit; split
  · exact h.gotoStep (by rw [hs]; decide)
  · exact seqInv_pump h hs

theorem seqInv_pumpMore : SeqInv (pumpMore s) := by
  unfold pumpMore; split
  · exact seqInv_pumpExit h hs
  · exact seqInv_pump h hs
  · split
    · exact seqInv_pump h hs
    · exact seqInv_pumpExit h hs

theorem seqInv_pumpCounted : SeqInv (pumpCounted n s) := by
  unfold pumpCounted; split
  · exact seqInv_pumpExit h hs
  · split
    · split
      · exact .raise h.congr
      · exact seqInv_pump h hs
    · exact seqInv_pumpExit h hs
  · split
    · exact seqInv_pump h hs
    · exact seqInv_pumpExit h hs

theorem seqInv_pumpSnapshot : SeqInv (pumpSnapshot s) := by
  unfold pumpSnapshot; split
  · exact seqInv_pumpMore h.congr hs
  · exact seqInv_pumpExit h.congr hs

theorem seqInv_pumpMove : SeqInv (pumpMove s) := by
  unfold pumpMove; split
  · exact seqInv_pumpExit h hs
  · exact seqInv_pumpMore h.congr hs
  · exact seqInv_pumpMore h.congr hs

theorem seqInv_pumpBegin (hb : pumpBegin s = .next t) : SeqInv t := by
  unfold pumpBegin at hb
  split at hb <;> cases hb
  exact seqInv_pump h.congr hs

theorem seqInv_pumpDeadline : SeqInv (pumpDeadline s) := by
  unfold pumpDeadline; split
  · exact .finish h.congr (ne_busWidth_of_xstep (h.phase_xstep (by rw [hs]; decide)))
  · exact seqInv_pump h.congr hs

end Pump

/-- A met wait of an exchange goes on to a later step of it; one of a pulse or a reset request returns. -/
theorem seqInv_waitMet (h : SeqInv s) {w : WaitFor} (hp : s.ph.phase = .wait w .poll) :
    SeqInv (waitMet w s) := by
  have hw : s.ph.phase ≠ .busWidth := by simp [hp]
  have hx : s.ph.xstep = (Phase.wait w .poll).xstep := hp ▸ h.xstep_eq
  cases w with
  | ready =>
    have hs : s.ph.xstep ≠ 0 := by rw [hx]; decide
    simp only [waitMet]; split
    · exact h.gotoSame hs hx.symm
    · exact h.gotoStep hs
  | notBusy => exact h.gotoStep (by rw [hx]; decide)
  | accepted => exact seqInv_enterStep4 h (by rw [hx]; decide)
  | done => exact seqInv_enterStep5 h (by rw [hx]; decide)
  | pulse => exact h.finish hw
  | reset f => exact h.finish hw

theorem seqInv_waitExpired {w : WaitFor} (h : SeqInv s) (hw : s.ph.phase ≠ .busWidth) :
    SeqInv (waitExpired w s) := by
  cases w <;> exact h.finish hw

/-- The same wait goes on at another place. -/
theorem SeqInv.waitOn {w : WaitFor} {stage stage' : WaitStage} (h : SeqInv s)
    (hp : s.ph.phase = .wait w stage) : SeqInv (s.goto (.wait w stage')) := by
  obtain ⟨hfit, hx⟩ := wait_stage_irrelevant w stage' stage s.ph.ctx
  exact h.goto hp hx hfit

theorem seqInv_waitStep (h : SeqInv s) {w : WaitFor} {stage : WaitStage} (hp : s.ph.phase = .wait w stage) :
    SeqInv (waitStep w stage s) := by
  cases stage with
  | start => exact SeqInv.waitOn h.congr hp
  | poll =>
    simp only [waitStep, waitPoll]; split
    · exact seqInv_waitMet h.congr hp
    · exact SeqInv.waitOn h.congr hp
  | check =>
    simp only [waitStep, waitCheck]; split
    · exact seqInv_waitExpired h.congr (by simp [hp])
    · exact SeqInv.waitOn h.congr hp

/-! ## The client operations -/

/-- The exchange that PROGRAM_TXN prepared begins. -/
theorem seqInv_startData (h : RunsFor s s.ph.ctx) (hd : s.ph.ctx.forData = true) : SeqInv (startData s) := by
  cases hc : s.ph.ctx with (simp only [startData, hc]; rw [hc] at h hd)
  | scr | readBlock | writeBlock | readRow | writeRow | scrRow => exact h.startXchg
  | bare | pulseOff | pulseOn | fifoReset | dmaReset | goIdle | voltage | ocrApp | ocrCond | identify
  | address | csd | select | scrApp => cases hd

/-- OcrPoll's attempt failed: INIT fails, or the delay is next (44 R228). -/
theorem seqInv_ocrRetry (h : SeqInv s) (hf : s.fault = none) (hp : s.ph.phase = .returned)
    (hc : s.ph.ctx = .ocrApp ∨ s.ph.ctx = .ocrCond) : SeqInv (ocrRetry s) := by
  unfold ocrRetry; split
  · exact seqInv_failInit hf
  · exact h.goto hp (hfit := by rcases hc with hc | hc <;> rw [hc] <;> rfl)

/-- What INIT and the block operations do when an exchange, pulse or reset request has returned. -/
theorem seqInv_resume (h : SeqInv s) (hf : s.fault = none) (hp : s.ph.phase = .returned) :
    SeqInv (resume s) := by
  have h0 : s.ph.xstep = 0 := h.xstep_eq.trans (by rw [hp]; rfl)
  have hna : s.ph.ctx.alone = false := by simpa [hp, phaseFits] using h.phase_fits
  have hr := h.runsFor hf
  cases hc : s.ph.ctx with (simp only [resume, hc]; rw [hc] at hr hna)
  | bare | readRow | writeRow | scrRow => cases hna
  | pulseOff =>
    unfold afterPulseOff; split
    · exact h.goto hp (hfit := by rw [hc]; rfl)
    · exact seqInv_failInit hf
  | pulseOn =>
    unfold afterPulseOn; split
    · exact (hr.enter (q := .fifoReset) (x := .fifoReset)).startReset h0 (by simp)
    · exact seqInv_failInit hf
  | fifoReset =>
    unfold afterFifoReset; split
    · obtain ⟨-, hbusy, husable, -⟩ := hr.enter (q := .busWidthInit) (x := .fifoReset)
      exact ⟨h0, by rw [goto_ph, enter_ph, hc]; rfl, by rw [goto_ph, enter_ph, hc]; rfl, by simp,
        by simpa [hf, hc] using hbusy, husable, fun hx => absurd h0 hx⟩
    · exact seqInv_failInit hf
  | dmaReset =>
    unfold afterDmaReset; split
    · exact hr.initExchange
    · exact seqInv_failInit hf
  | goIdle | identify | address | csd | select =>
    simp only [afterGoIdle, afterIdentify, afterAddress, afterCsd, afterSelect]
    split
    · exact hr.initExchange
    · exact seqInv_failInit hf
    · exact seqInv_failInit hf
  | voltage => exact hr.initExchange (q := .ocrPoll)
  | ocrApp =>
    unfold afterOcrApp; split
    · exact hr.initExchange (q := s.ph.ps) (hq := hr.state_fits)
    · exact seqInv_ocrRetry h hf hp (.inl hc)
    · exact seqInv_ocrRetry h hf hp (.inl hc)
  | ocrCond =>
    unfold afterOcrCond; split
    · split
      · exact hr.initExchange
      · exact seqInv_ocrRetry h hf hp (.inr hc)
    · exact seqInv_ocrRetry h hf hp (.inr hc)
    · exact seqInv_ocrRetry h hf hp (.inr hc)
  | scrApp =>
    unfold afterScrApp; split
    · exact (hr.enter (q := s.ph.ps) (x := .scr) hr.state_fits).congr.startTxn h0
    · exact seqInv_becomeReady hf
    · exact seqInv_becomeReady hf
  | scr => exact seqInv_becomeReady hf
  | readBlock | writeBlock =>
    have hq : s.ph.ps.settled = true := by rw [beq_iff_eq.mp hr.state_fits]; rfl
    simp only [afterReadBlock, afterWriteBlock]
    split <;> exact seqInv_complete hf h.usable_eq hq

/-- One step of an operation in progress. -/
theorem seqInv_advance (h : SeqInv s) (hf : s.fault = none) (ha : advance s = .next t) : SeqInv t := by
  have hr := h.runsFor hf
  have hx := h.xstep_eq
  have hfit := h.phase_fits
  unfold advance at ha
  cases hp : s.ph.phase with rw [hp] at ha hx hfit
  | pumpStart => exact seqInv_pumpBegin h hx ha
  | idle => cases ha; exact h
  | wait w stage => cases ha; exact seqInv_waitStep h hp
  | pumpSnap => cases ha; exact seqInv_pumpSnapshot h hx
  | pumpCount => cases ha; exact seqInv_pumpCounted h.congr hx
  | pumpMove => cases ha; exact seqInv_pumpMove h hx
  | pumpTime => cases ha; exact seqInv_pumpDeadline h hx
  | classify => cases ha; exact h.finish (by simp [hp])
  | writeArg | ackRead | readResp0 | readResp1 | readResp2 =>
    cases ha
    have hs : s.ph.xstep ≠ 0 := by rw [hx]; decide
    exact SeqInv.gotoSame h.congr hs hx.symm
  | writeCmd | ackWrite | readResp3 =>
    cases ha
    have hs : s.ph.xstep ≠ 0 := by rw [hx]; decide
    exact SeqInv.gotoStep h.congr hs
  | pulseWrite | resetRead f | resetWrite f | clockDivide | blockSize =>
    cases ha
    exact SeqInv.goto h.congr hp
  | clockOff =>
    cases ha
    rw [beq_iff_eq.mp hfit] at hr
    exact hr.congr.issueCommitClk hx
  | clockOn =>
    cases ha
    rw [beq_iff_eq.mp hfit] at hr
    exact ((hr.enter (q := s.ph.ps) (x := .pulseOn) hr.state_fits).congr).issueCommitClk hx
  | busWidth =>
    cases ha
    rw [beq_iff_eq.mp hfit] at hr
    exact ((hr.enter (q := .dmaReset) (x := .dmaReset)).congr).startReset hx (by simp)
  | sleep =>
    cases ha
    have hc : s.ph.ctx = .ocrApp ∨ s.ph.ctx = .ocrCond := by simpa [phaseFits] using hfit
    rcases hc with hc | hc <;> rw [hc] at hr <;> exact hr.initExchange (q := s.ph.ps) (hq := hr.state_fits)
  | byteCount => cases ha; exact seqInv_startData hr.congr hfit
  | returned => cases ha; exact seqInv_resume h hf hp

/-! ## Acceptance -/

/-- An idle, unfaulted block can run a row by itself. -/
theorem SeqInv.idle_runsFor (h : SeqInv s) (hf : s.fault = none) (hp : s.ph.phase = .idle) :
    RunsFor s .bare ∧ s.ph.xstep = 0 := by
  have hc : s.ph.ctx = .bare := by simpa [hp, phaseFits] using h.phase_fits
  exact ⟨hc ▸ h.runsFor hf, h.xstep_eq.trans (by rw [hp]; rfl)⟩

theorem RunsFor.row {c : Ctx} (h : RunsFor s .bare) (hc : c.alone = true := by rfl) : RunsFor s c :=
  ⟨h.fault_none, h.busy_eq.trans (by rw [hc]; rfl), h.usable_eq, (stateFits_alone hc _).trans h.state_fits⟩

/-- A client operation that fits the protocol state can run once its request is accepted (45 R250). -/
theorem RunsFor.request {c : Ctx} (h : RunsFor s .bare) (hq : stateFits s.ph.ps c = true)
    (hc : c.alone = false := by rfl) : RunsFor (beginRequest s) c :=
  ⟨h.fault_none, by simp [hc], h.usable_eq, hq⟩

/-- `usable` is set in Ready only (10 R42), where the block operations run. -/
theorem RunsFor.ready_of_usable {c : Ctx} (h : RunsFor s c) (hu : s.ses.usable = true) : s.ph.ps = .ready :=
  beq_iff_eq.mp (h.usable_eq.symm.trans hu)

theorem seqInv_beginBlockRow (h : SeqInv s) (hr : RunsFor s .bare) (h0 : s.ph.xstep = 0) {c : Ctx}
    (ha : c.alone = true) (hd : c.forData = true) (index buf : Word) :
    SeqInv (beginBlockRow c index buf s) := by
  unfold beginBlockRow; split
  · exact h.raise
  · exact ((hr.row ha).congr).startTxn h0 hd

/-- The acceptance of an operation by an idle block. -/
theorem seqInv_exec (h : SeqInv s) (hf : s.fault = none) {i : Instr} (he : exec i s = .next t) : SeqInv t := by
  obtain ⟨hr, h0⟩ := h.idle_runsFor hf (exec_idle he)
  cases i with obtain ⟨-, rfl⟩ := accept_next he
  | goIdleState | allSendCid | sendRelativeAddr | selectCard | sendIfCond | sendCsd | sdSendOpCond
  | appCmd arg => exact hr.startXchg
  | commitClk => exact hr.issueCommitClk h0
  | sendScr => exact (hr.row.congr).startTxn h0
  | readSingleBlock index buf | writeSingleBlock index buf => exact seqInv_beginBlockRow h hr h0 rfl rfl _ _
  | init =>
    unfold beginInit; split
    case isTrue hq =>
      have husable : s.ses.usable = false := hr.usable_eq.trans (by rw [show s.ph.ps = .powerOn from hq]; rfl)
      exact ⟨h0, rfl, rfl, by simp, by simp [hf, Ctx.alone], husable, fun hx => absurd h0 hx⟩
    case isFalse => exact h.raise.congr
  | readBlock index buf =>
    unfold beginReadBlock; split
    · exact h.raise.congr
    · split
      · exact seqInv_complete hf hr.usable_eq hr.state_fits
      case isFalse hu =>
        have hq := hr.ready_of_usable (by simpa using hu)
        exact ((hr.request (by rw [hq]; rfl)).congr).startTxn h0
  | writeBlock index buf =>
    unfold beginWriteBlock; split
    · exact h.raise.congr
    · split
      · exact seqInv_complete hf hr.usable_eq hr.state_fits
      case isFalse hu =>
        have hq := hr.ready_of_usable (by simpa using hu)
        exact ((hr.request (by rw [hq]; rfl)).congr).startTxn h0

/-- Settles O47: by what a step can do (a reset, waiting, an acceptance, a rejection, or the next place of the operation
in progress), each of which keeps the invariant. -/
theorem sequencingKept : Obligations.SequencingKept := by
  intro s t h hstep
  obtain ⟨-, rfl⟩ | ⟨-, -, -, rfl⟩ | ⟨⟨-, -, hf⟩, -, o, i, -, -, he⟩ | ⟨-, -, o, f, -, -, rfl⟩ |
    ⟨⟨-, -, hf⟩, -, -, ha⟩ := step_next_cases hstep
  · exact seqInv_of_reset rfl rfl rfl
  · exact h
  · exact seqInv_exec (s := takeRequest s) h.congr hf he
  · exact .raise h.congr
  · exact seqInv_advance h hf ha

/-! ## Reset (R48) -/

/-- The default parameters are allowed, and nothing holds the block after reset. -/
theorem reset_inService : State.reset.inService := ⟨rfl, by decide, rfl⟩

/-- Settles O45: the register values are those of the definitions, and with no request the block waits. -/
theorem resetLeavesStatedValues : Obligations.ResetLeavesStatedValues := by
  obtain ⟨-, hwf, -⟩ := reset_inService
  exact ⟨rfl, rfl, rfl, rfl, rfl, rfl, hwf, step_waits reset_inService rfl rfl⟩

/-- Settles O46: at reset no exchange, pump or PROGRAM_TXN is in progress, so the clauses about them have no case. -/
theorem invariantsAtReset : Obligations.InvariantsAtReset := by
  have hocr : OcrInv State.reset := ⟨fun h => (by cases h), fun h => (by cases h)⟩
  have hpump : PumpInv State.reset :=
    ⟨rfl, fun h => (by rcases h with h | h | h <;> cases h), fun h => (by cases h), fun h => (by cases h)⟩
  have htxn : TxnInv State.reset := ⟨fun h => (by cases h), fun h => absurd rfl h, fun h => absurd rfl h⟩
  have hflight : flightFits State.reset := fun h => (by cases h)
  exact ⟨seqInv_of_reset rfl rfl rfl, hocr, hpump, htxn, hflight, rfl⟩

/-! ## The first read of a register (R49) -/

/-- A field kept out of a word and put back gives the word (20 R70, `fifo_count`). -/
theorem replace_getField (v : Word) (lo w : Nat) :
    (v &&& ~~~fieldMask lo w) ||| putField lo (getField v lo w) = v := by
  apply BitVec.eq_of_getLsbD_eq
  intro k hk
  rw [BitVec.getLsbD_or, BitVec.getLsbD_and, BitVec.getLsbD_not, fieldMask, putField_bit, putField_bit]
  simp only [getField, BitVec.getLsbD_extractLsb', BitVec.getLsbD_allOnes]
  by_cases hlo : k < lo
  · simp [hlo, hk]
  · by_cases hw : k - lo < w
    · simp [hlo, hk, hw, show lo + (k - lo) = k by omega]
    · simp [hlo, hk, hw]

/-- The move after which the registers the block reads answer `v`: it drives them so, and fills the FIFO to the count
`v` shows in STATUS. -/
def answerMove (p : Params) (v : Word) : EnvMove :=
  { (default : EnvMove) with
    ctrl := v, cmd := v, status := v, rint := v, resp0 := v, resp1 := v, resp2 := v, resp3 := v
    put := List.replicate ((getField v p.layout.status.fifoCount 13).toNat / p.units.count) 0
    residue := (getField v p.layout.status.fifoCount 13).toNat % p.units.count }

/-- Nothing that the laws R66 to R70 hold on to fixes the next reading of a register: the bits that can only fall are
up, the flags that can only rise are down, and the FIFO is empty. -/
structure ReadsFree (s : State) : Prop where
  ctrl_up : s.regs.ctrl ||| ~~~resetMask s.cfg.layout = BitVec.allOnes 32
  cmd_up : s.regs.cmd ||| ~~~fieldMask s.cfg.layout.cmd.start 1 = BitVec.allOnes 32
  flags_down : s.regs.rintsts &&& flagBits = 0
  fifo_empty : s.env.fifo = []

/-- The FIFO that `answerMove` leaves has the count of `v`. -/
theorem answerMove_count {v : Word} (hm : nextMove s = answerMove s.cfg v) (hf : s.env.fifo = []) :
    Env.count s.cfg (envStep s).env = getField v s.cfg.layout.status.fifoCount 13 := by
  have hlen : (envStep s).env.fifo.length =
      (getField v s.cfg.layout.status.fifoCount 13).toNat / s.cfg.units.count := by
    have hempty : (dropMove s).env.fifo = [] := hf
    simp [envStep_fifo, moveFifo, hm, hempty, answerMove]
  have hres : (envStep s).env.residue =
      (getField v s.cfg.layout.status.fifoCount 13).toNat % s.cfg.units.count := by
    simp [envStep_residue, hm, answerMove]
  rw [Env.count, hlen, hres, Nat.div_add_mod, BitVec.ofNat_toNat, BitVec.setWidth_eq]

theorem ReadsFree.answers {X : Reg} {v : Word} (h : ReadsFree s) (hm : nextMove s = answerMove s.cfg v)
    (hX : X ∈ [Reg.ctrl, .cmd, .status, .rintsts, .resp0, .resp1, .resp2, .resp3]) : readVal X s = v := by
  obtain ⟨hr0, hr1, hr2, hr3⟩ : (envStep s).regs.resp0 = v ∧ (envStep s).regs.resp1 = v ∧
      (envStep s).regs.resp2 = v ∧ (envStep s).regs.resp3 = v := by
    simp [envStep, moveRegs, hm, answerMove]
  simp only [List.mem_cons, List.not_mem_nil, or_false] at hX
  rcases hX with rfl | rfl | rfl | rfl | rfl | rfl | rfl | rfl <;> simp only [readVal, Regs.get]
  · rw [envStep_ctrl, hm, moveCtrl, h.ctrl_up]; exact BitVec.allOnes_and
  · rw [envStep_cmd, hm, moveCmd, h.cmd_up]; exact BitVec.allOnes_and
  · rw [envStep_status, hm, moveStatus, answerMove_count hm h.fifo_empty]; exact replace_getField v _ _
  · rw [envStep_rintsts, hm, raiseFlags, h.flags_down]; exact BitVec.zero_or
  · exact hr0
  · exact hr1
  · exact hr2
  · exact hr3

/-- A reset after which the controller holds what fixes no reading. -/
def freeBoot : EnvMove :=
  { (default : EnvMove) with
    boot := { (default : Boot) with
      regs := { (default : Regs) with ctrl := BitVec.allOnes 32, cmd := BitVec.allOnes 32 } } }

theorem readsFree_of_freeBoot (hm : nextMove s = freeBoot) : ReadsFree (blockReset s) := by
  refine ⟨?_, ?_, ?_, ?_⟩ <;> simp only [blockReset_regs, blockReset_env, bootEnv, hm]
  · exact BitVec.allOnes_or
  · exact BitVec.allOnes_or
  · rfl
  · rfl

/-- The reset values of the registers (notes/assumptions/5.md) fix no reading either. -/
theorem readsFree_reset : ReadsFree State.reset := ⟨by decide, by decide, rfl, rfl⟩

theorem ReadsFree.withScript (h : ReadsFree s) (ms : List EnvMove) :
    ReadsFree { s with env := { s.env with script := ms } } :=
  ⟨h.ctrl_up, h.cmd_up, h.flags_down, h.fifo_empty⟩

/-- Settles O57: after the reset the second listed move answers `v`, from State.reset the first. -/
theorem firstReadsAnswerAnything : Obligations.FirstReadsAnswerAnything := by
  refine ⟨fun s X v hr _ hX => ⟨freeBoot, answerMove s.cfg v, fun rest => ⟨_, if_pos hr, ?_⟩⟩,
    fun X v hX => ⟨answerMove Params.default v, fun rest => ?_⟩⟩
  · exact (readsFree_of_freeBoot rfl).answers rfl hX
  · exact (readsFree_reset.withScript _).answers rfl hX

end Sys2Proof.Machine
end

