-- ==== Sys2Proof/Proofs/Memory.lean ====
section
/-! SUPPORT. Proofs of the statements of 20_memory.md: the laws of RINTSTS, CMD, CTRL, the card clock and the FIFO
(R66 to R70) over every step, and what a step does to client memory (R79). -/

namespace Sys2Proof.Machine

variable {s t : State}

/-! ## What a store leaves and which phase makes it -/

/-- A store changes no register but its own (20 R65). -/
theorem store_get_ne (r : Regs) {X Y : Reg} (v : Word) (h : Y ≠ X) : (r.store X v).get Y = r.get Y := by
  cases X <;> cases Y <;> trivial

/-- RINTSTS is written in step 6 only, with the value read (42 R179). -/
theorem phaseStore_rintsts {v : Word} (h : phaseStore s = some (.rintsts, v)) :
    s.ph.phase = .ackWrite ∧ v = s.wrk.snap := by
  unfold phaseStore at h
  split at h <;> cases h
  exact ⟨‹_›, rfl⟩

/-- CTRL is written by a reset request only (40 R138). -/
theorem phaseStore_ctrl {v : Word} (h : phaseStore s = some (.ctrl, v)) :
    ∃ f, s.ph.phase = .resetWrite f ∧ v = s.wrk.held ||| f.mask s.cfg.layout := by
  unfold phaseStore at h
  split at h <;> cases h
  exact ⟨_, ‹_›, rfl⟩

/-- CMD is written in step 2 and by the commit pulse only (42 R173, R184). -/
theorem phaseStore_cmd {v : Word} (h : phaseStore s = some (.cmd, v)) :
    (s.ph.phase = .writeCmd ∧ v = s.wrk.cmdval) ∨ (s.ph.phase = .pulseWrite ∧ v = s.cfg.commitClkValue) := by
  unfold phaseStore at h
  split at h <;> cases h
  · exact .inl ⟨‹_›, rfl⟩
  · exact .inr ⟨‹_›, rfl⟩

/-! ## What a step does to the controller -/

/-- What the controller has taken from the block: the value in flight (20 R68), the clock values in force (20 R69). -/
def Env.taken (e : Env) : Option Flight × Word × Word := (e.flight, e.cardDiv, e.cardEna)

theorem taken_eq_iff (e e' : Env) : e.taken = e'.taken ↔
    e.flight = e'.flight ∧ e.cardDiv = e'.cardDiv ∧ e.cardEna = e'.cardEna := by
  simp [Env.taken]

/-- What a step does to the registers and to what the controller has taken. -/
inductive ControllerEffect (s t : State) : Prop
  | kept (hregs : t.regs = s.regs) (htaken : t.env.taken = s.env.taken)
  /-- The environment has moved. -/
  | moved (hregs : t.regs = (envStep s).regs) (htaken : t.env.taken = (envStep s).env.taken)
  /-- The environment has moved, and the block has written a register. -/
  | stored (X : Reg) (v : Word) (hX : phaseStore s = some (X, v)) (hregs : t.regs = (envStep s).regs.store X v)
    (htaken : t.env.taken = (writeReg X v s).env.taken)
  | reset (hr : s.resetLine = true) (h : t = blockReset s)

theorem step_controller (h : step s = .next t) : ControllerEffect s t := by
  cases step_ports h with
  | quiet h | chosen h => exact .kept h.regs_eq ((congrArg Env.taken h.env_eq).trans rfl)
  | load _ _ h | loadChosen _ _ h | drain _ h | fill _ _ h | clock h | delay _ h =>
    exact .moved h.regs_eq ((congrArg Env.taken h.env_eq).trans rfl)
  | store X v hX h => exact .stored X v hX h.regs_eq (congrArg Env.taken h.env_eq)
  | reboot hr h => exact .reset hr h

/-- A register after a step is as before, as the environment's move leaves it, or as a write of the block leaves it;
but for an external reset (10 R49). -/
theorem step_register (Y : Reg) (h : step s = .next t) :
    t.regs.get Y = s.regs.get Y ∨ t.regs.get Y = (envStep s).regs.get Y ∨
    (∃ v, phaseStore s = some (Y, v) ∧ t.regs = (envStep s).regs.store Y v) ∨ s.resetLine = true := by
  cases step_controller h with
  | kept hregs => exact .inl (by rw [hregs])
  | moved hregs => exact .inr (.inl (by rw [hregs]))
  | stored X v hX hregs =>
    by_cases hY : Y = X
    · subst hY; exact .inr (.inr (.inl ⟨v, hX, hregs⟩))
    · exact .inr (.inl (by rw [hregs, store_get_ne _ v hY]))
  | reset hr => exact .inr (.inr (.inr hr))

/-- Every step is the external reset or one of a block in service. -/
theorem step_inService (h : step s = .next t) : (s.resetLine = true ∧ t = blockReset s) ∨ s.inService := by
  rcases step_next_cases h with hr | ⟨hs, -⟩ | ⟨hs, -⟩ | ⟨hs, -⟩ | ⟨hs, -⟩
  · exact .inl hr
  all_goals exact .inr hs

/-! ## RINTSTS (R66) -/

/-- A flag that is set stays set, unless step 6 writes a 1 to it or the block is reset. -/
theorem step_flag {k : Nat} (h : step s = .next t) (hk : k < 16) (hset : s.regs.rintsts.getLsbD k = true) :
    t.regs.rintsts.getLsbD k = true ∨ (s.ph.phase = .ackWrite ∧ s.wrk.snap.getLsbD k = true) ∨
      s.resetLine = true := by
  have hmove : (envStep s).regs.rintsts.getLsbD k = true := by
    rw [envStep_rintsts, raiseFlags_bit _ _ k hk, hset, Bool.true_or]
  rcases step_register .rintsts h with hY | hY | ⟨v, hX, hregs⟩ | hr
  · left; rwa [show t.regs.rintsts = s.regs.rintsts from hY]
  · left; rwa [show t.regs.rintsts = (envStep s).regs.rintsts from hY]
  · obtain ⟨hp, rfl⟩ := phaseStore_rintsts hX
    by_cases hv : s.wrk.snap.getLsbD k = true
    · exact .inr (.inl ⟨hp, hv⟩)
    · left
      rw [hregs]
      exact (ackFlags_bit _ _ k hk).trans (by simp [hmove, hv])
  · exact .inr (.inr hr)

/-- Settles O31: at the store by `ackFlags_bit`, at a move by `raiseFlags_bit`, over a step by `step_flag`. -/
theorem flagsClearOnlyWhenWritten : Obligations.FlagsClearOnlyWhenWritten :=
  ⟨fun r v k hk => ackFlags_bit r.rintsts v k hk, fun m s k hk => raiseFlags_bit s.regs.rintsts m.rint k hk,
    fun _ _ _ h hk hset => step_flag h hk hset⟩

/-! ## CTRL (R67) -/

/-- A reset bit rises only by the write of a reset request that has it set, or with an external reset. -/
theorem step_resetBit {k : Nat} (h : step s = .next t) (hk : (resetMask s.cfg.layout).getLsbD k = true)
    (hclear : s.regs.ctrl.getLsbD k = false) (hset : t.regs.ctrl.getLsbD k = true) :
    (∃ f, s.ph.phase = .resetWrite f ∧ (s.wrk.held ||| f.mask s.cfg.layout).getLsbD k = true) ∨
      s.resetLine = true := by
  have hmove : (envStep s).regs.ctrl.getLsbD k = false := by
    rw [envStep_ctrl, resetBit_moveCtrl _ _ _ k hk, hclear, Bool.false_and]
  rcases step_register .ctrl h with hY | hY | ⟨v, hX, hregs⟩ | hr
  · rw [show t.regs.ctrl = s.regs.ctrl from hY, hclear] at hset; cases hset
  · rw [show t.regs.ctrl = (envStep s).regs.ctrl from hY, hmove] at hset; cases hset
  · obtain ⟨f, hp, rfl⟩ := phaseStore_ctrl hX
    rw [hregs] at hset
    exact .inl ⟨f, hp, hset⟩
  · exact .inr hr

/-- The two steps of SET_BITS on CTRL (40 R137): the value read is written back with the bit set. -/
theorem run_resetRequest {f : ResetBit} (hs : s.running) (hp : s.ph.phase = .resetRead f) :
    Host.Core.run core 2 s = .next (writeReset f (readForReset f s)) := by
  obtain ⟨hserv, hport, -⟩ := hs
  have hread : step s = .next (readForReset f s) := by
    rw [step_running ⟨hserv, hport, by simp [hp]⟩, advance, hp]
  have hwrite : step (readForReset f s) = .next (writeReset f (readForReset f s)) := by
    rw [step_running (s := readForReset f s) ⟨hserv, hport, by simp [readForReset]⟩]; rfl
  rw [run_succ hread, run_succ hwrite, run_zero]

/-- Settles O33: the run of a request by `run_resetRequest`, every other step by `step_resetBit`. -/
theorem resetBitsOnlyRequested : Obligations.ResetBitsOnlyRequested :=
  ⟨fun s _ hs hp => ⟨_, readVal .ctrl s, run_resetRequest hs hp, rfl, rfl, rfl⟩,
    fun _ _ _ h hk hclear hset => step_resetBit h hk hclear hset⟩

/-! ## CMD and the value in flight (R68) -/

/-- What a step does to CMD and to the value in flight. -/
inductive CmdEffect (s t : State) : Prop
  | kept (hcmd : t.regs.cmd = s.regs.cmd) (hflight : t.env.flight = s.env.flight)
  | moved (hcmd : t.regs.cmd = (envStep s).regs.cmd) (hflight : t.env.flight = (envStep s).env.flight)
  /-- The block has written CMD, in step 2 or for the commit pulse. -/
  | written (hw : s.cfg.wf = true) (h : (s.ph.phase = .writeCmd ∧ t.regs.cmd = s.wrk.cmdval) ∨
      (s.ph.phase = .pulseWrite ∧ t.regs.cmd = s.cfg.commitClkValue))
  | reset (hr : s.resetLine = true) (h : t = blockReset s)

theorem step_cmd (h : step s = .next t) : CmdEffect s t := by
  rcases step_inService h with ⟨hr, ht⟩ | ⟨-, hw, -⟩
  · exact .reset hr ht
  cases step_controller h with
  | kept hregs htaken => exact .kept (by rw [hregs]) ((taken_eq_iff _ _).mp htaken).1
  | moved hregs htaken => exact .moved (by rw [hregs]) ((taken_eq_iff _ _).mp htaken).1
  | stored X v hX hregs htaken =>
    by_cases hcmd : X = .cmd
    · subst hcmd
      rw [← show t.regs.cmd = v by rw [hregs]; rfl] at hX
      exact .written hw (phaseStore_cmd hX)
    · refine .moved ?_ (((taken_eq_iff _ _).mp htaken).1.trans (if_neg fun hc => hcmd hc.1))
      rw [hregs]; exact store_get_ne _ v (Ne.symm hcmd)
  | reset hr h => exact .reset hr h

theorem cmdFields_start (c : CardCmd) : c.fields.start = 1 := by cases c <;> rfl

/-- Every encoded card command has `start` set (41 R165). -/
theorem cmdStart_cardValue {p : Params} (h : p.wf = true) (c : CardCmd) : cmdStart p.layout (cardValue p c) = true := by
  have hl := (cmdFields_of_wf h).1
  simp only [rangesOk, Layout.rangesCmd, List.all_cons, Bool.and_eq_true, decide_eq_true_eq] at hl
  have hbit : (putField p.layout.cmd.start c.fields.start).getLsbD p.layout.cmd.start = true := by
    rw [putField_bit_self _ (by omega), cmdFields_start]; rfl
  simp only [cmdStart_eq, cardValue, encCmd, BitVec.getLsbD_or, hbit, Bool.true_or]

/-- The commit pulse has `start` set (41 R163). -/
theorem cmdStart_commitValue {p : Params} (h : p.wf = true) : cmdStart p.layout p.commitClkValue = true := by
  simp only [Params.wf, Params.commitOk, Bool.and_eq_true] at h
  tauto

/-- Every value the block writes to CMD has `start` set. -/
theorem SeqInv.cmdStart_written (hs : SeqInv s) (hw : s.cfg.wf = true)
    (h : (s.ph.phase = .writeCmd ∧ t.regs.cmd = s.wrk.cmdval) ∨
      (s.ph.phase = .pulseWrite ∧ t.regs.cmd = s.cfg.commitClkValue)) :
    cmdStart s.cfg.layout t.regs.cmd = true := by
  rcases h with ⟨hp, hcmd⟩ | ⟨-, hcmd⟩
  · obtain ⟨c, hc⟩ := hs.encoded (by rw [hs.xstep_eq, hp]; decide)
    rw [hcmd, hc]; exact cmdStart_cardValue hw c
  · rw [hcmd]; exact cmdStart_commitValue hw

/-- A move that lowers `start` accepts the value in flight. -/
theorem envStep_accepts (h1 : cmdStart s.cfg.layout s.regs.cmd = true)
    (h0 : cmdStart s.cfg.layout (envStep s).regs.cmd = false) : (envStep s).env.flight = none := by
  rw [envStep_flight_eq]
  exact if_pos (by simp only [accepts, dropMove_regs, h1, Bool.true_and, Bool.not_eq_true']; exact h0)

/-- `start` rises only by a write of CMD (20 R68). -/
theorem step_start_rises (h : step s = .next t) (h0 : cmdStart s.cfg.layout s.regs.cmd = false)
    (h1 : cmdStart s.cfg.layout t.regs.cmd = true) :
    (s.ph.phase = .writeCmd ∧ t.regs.cmd = s.wrk.cmdval) ∨
      (s.ph.phase = .pulseWrite ∧ t.regs.cmd = s.cfg.commitClkValue) ∨ s.resetLine = true := by
  cases step_cmd h with
  | kept hcmd => rw [hcmd, h0] at h1; cases h1
  | moved hcmd => rw [hcmd, envStep_cmdStart, h0] at h1; cases h1
  | written _ hwr => exact hwr.imp_right .inl
  | reset hr => exact .inr (.inr hr)

/-- `start` falls only because the environment's move lowers it, which accepts the value in flight (20 R68). -/
theorem step_start_falls (hs : SeqInv s) (h : step s = .next t) (h1 : cmdStart s.cfg.layout s.regs.cmd = true)
    (h0 : cmdStart s.cfg.layout t.regs.cmd = false) :
    (cmdStart s.cfg.layout (nextMove s).cmd = false ∧ t.env.flight = none) ∨ s.resetLine = true := by
  cases step_cmd h with
  | kept hcmd => rw [hcmd, h1] at h0; cases h0
  | moved hcmd hflight =>
    rw [hcmd] at h0
    refine .inl ⟨?_, hflight.trans (envStep_accepts h1 h0)⟩
    rwa [envStep_cmdStart, h1, Bool.true_and] at h0
  | written hw hwr => rw [hs.cmdStart_written hw hwr] at h0; cases h0
  | reset hr => exact .inr hr

/-- A value in flight stays until it is accepted, unless CMD is written again. -/
theorem step_flight (h : step s = .next t) (hc : s.ph.phase ≠ .writeCmd) (hp : s.ph.phase ≠ .pulseWrite) :
    t.env.flight = s.env.flight ∨ (t.env.flight = none ∧ cmdStart s.cfg.layout t.regs.cmd = false) ∨
      s.resetLine = true := by
  cases step_cmd h with
  | kept _ hflight => exact .inl hflight
  | moved hcmd hflight => rw [hcmd, hflight]; exact envStep_flight.imp_right .inl
  | written _ hwr => exact absurd hwr (by simp [hc, hp])
  | reset hr => exact .inr (.inr hr)

/-- Settles O32: a move only lowers `start`, and `step_cmd` says what a step does to it. -/
theorem startRisesOnlyByWriting : Obligations.StartRisesOnlyByWriting :=
  ⟨fun m s => cmdStart_moveCmd s.cfg s.regs.cmd m.cmd, fun _ _ h h0 h1 => step_start_rises h h0 h1,
    fun _ _ hs h h1 h0 => step_start_falls hs h h1 h0, fun _ _ h hc hp => step_flight h hc hp⟩

/-- A move that leaves a value in flight leaves `start` at 1. -/
theorem flightFits_envStep (h : flightFits s) : flightFits (envStep s) := by
  intro hsome
  rcases envStep_flight (s := s) with hf | ⟨hf, -⟩
  · by_contra h0
    have hnone := envStep_accepts (h (hf ▸ hsome)) (Bool.eq_false_iff.mpr h0)
    rw [hnone] at hsome; cases hsome
  · rw [hf] at hsome; cases hsome

/-- `flightFits` speaks of the value in flight, CMD and the layout only. -/
theorem flightFits_congr {u : State} (h : flightFits u) (hcfg : t.cfg = u.cfg) (hcmd : t.regs.cmd = u.regs.cmd)
    (hflight : t.env.flight = u.env.flight) : flightFits t := by
  unfold flightFits; rwa [hcfg, hcmd, hflight]

/-- Settles O55: a kept or moved CMD by `flightFits_envStep`, a written one has `start` set. -/
theorem inFlightOnlyWhileStart : Obligations.InFlightOnlyWhileStart := by
  intro s t hs hfit h
  cases step_cmd h with
  | kept hcmd hflight => exact flightFits_congr hfit (step_cfg h) hcmd hflight
  | moved hcmd hflight => exact flightFits_congr (flightFits_envStep hfit) ((step_cfg h).trans rfl) hcmd hflight
  | written hw hwr => intro _; rw [step_cfg h]; exact hs.cmdStart_written hw hwr
  | reset _ ht => subst ht; exact bootEnv_flight _ _ _

/-! ## The card clock (R69) -/

/-- Settles O35: the environment's move decides (`envStep_card`); a write of the block leaves the clock alone. -/
theorem cardClockChangesOnlyByPulse : Obligations.CardClockChangesOnlyByPulse := by
  intro s t h
  cases step_controller h with
  | kept _ htaken => exact .inl ((taken_eq_iff _ _).mp htaken).2
  | moved _ htaken | stored _ _ _ _ htaken =>
    obtain ⟨-, hdiv, hena⟩ := (taken_eq_iff _ _).mp htaken
    rw [hdiv, hena]; exact envStep_card.imp_right .inl
  | reset hr => exact .inr (.inr hr)

/-! ## The FIFO (R70) -/

/-- A field put into a word reads back (30 R91). -/
theorem getField_replace {lo w : Nat} (h : lo + w ≤ 32) (v : Word) (x : BitVec w) :
    getField ((v &&& ~~~fieldMask lo w) ||| putField lo x) lo w = x := by
  apply BitVec.eq_of_getLsbD_eq
  intro k hk
  rw [getField, BitVec.getLsbD_extractLsb', BitVec.getLsbD_or, BitVec.getLsbD_and, BitVec.getLsbD_not,
    fieldMask, putField_bit, putField_bit]
  simp [hk, show lo + k < 32 by omega]

theorem statusCount_moveStatus {p : Params} (h : p.wf = true) (count : BitVec 13) (up : Word) :
    statusCount p.layout (moveStatus p count up) = count.toNat := by
  have hin : p.layout.status.fifoCount + 13 ≤ 32 := by
    simp only [Params.wf, Layout.wf, rangesOk, Layout.rangesStatus, List.all_cons, Bool.and_eq_true,
      decide_eq_true_eq] at h
    tauto
  exact congrArg BitVec.toNat (getField_replace hin up count)

theorem units_pos (u : FifoUnits) : 0 < u.count := by cases u <;> decide

/-- Settles O36: a move puts the count of the FIFO it leaves into STATUS. -/
theorem fifoAccessLaw : Obligations.FifoAccessLaw := by
  refine ⟨fun s v vs h => ⟨?_, ?_⟩, fun s v h => ?_, fun s hw => ?_, fun s => ?_⟩
  · rw [fifoVal, h]
  · simp [h]
  · simp [h]
  · rw [envStep_status, statusCount_moveStatus hw, Env.count, BitVec.toNat_ofNat]
  · rw [envStep_residue]; exact Nat.mod_lt _ (units_pos _)

/-! ## Client memory (R79) -/

/-- The next step spoils the buffer `h` of a READ_BLOCK that does not return `Ok` (93 U2). -/
def spoils (s : State) (h : Word) : Prop :=
  (s.ph.phase = .returned ∧ s.ph.ctx = .readBlock ∧ exchangeFailed s = true ∧ h = s.wrk.buf) ∨
  (s.ph.ctx = .readBlock ∧ (overruns s ∨ s.resetLine = true) ∧ h = s.wrk.buf) ∨
  (s.isIdle = true ∧ s.ses.usable = false ∧ ∃ o index buf, s.port = some o ∧
    decode o = .ok (.readBlock index buf) ∧ buf.len.toNat = blockBytes ∧ h = buf.handle)

/-- What a step does to client memory. -/
inductive MemoryEffect (s t : State) : Prop
  | kept (h : t.mem = s.mem)
  /-- The read pump stores the word it drains. -/
  | word (h : Word) (n : Nat) (hp : s.ph.phase = .pumpMove) (htd : s.wrk.td = .read (.client h) n)
    (hm : t.mem = s.mem.writeLE (bufferWord s.cfg h s.wrk.cursor) s.cfg.w.bytes (fifoVal s))
  /-- The bytes of a buffer take free values. -/
  | spoilt (h : Word) (l : List (Option Byte)) (hs : spoils s h) (hl : l.length ≤ blockBytes)
    (hm : t.mem = s.mem.scribble (bufferBase h) l)

theorem scribble_take_length (l : List (Option Byte)) : (l.take blockBytes).length ≤ blockBytes :=
  (List.length_take ..).trans_le (Nat.min_le_left ..)

/-- A reset spoils the buffer of a READ_BLOCK in progress, and nothing else. -/
theorem blockReset_memory (hr : s.resetLine = true) : MemoryEffect s (blockReset s) := by
  by_cases hc : s.ph.ctx = .readBlock
  · exact .spoilt s.wrk.buf ((nextMove s).scribble.take blockBytes) (.inr (.inl ⟨hc, .inr hr, rfl⟩))
      (scribble_take_length _) (if_pos hc)
  · exact .kept (if_neg hc)

theorem step_memory (h : step s = .next t) : MemoryEffect s t := by
  obtain ⟨hr, rfl⟩ | ⟨-, -, -, rfl⟩ | ⟨-, hi, o, i, ho, hd, he⟩ | ⟨-, -, o, f, -, -, rfl⟩ | ⟨-, -, -, ha⟩ :=
    step_next_cases h
  · exact blockReset_memory hr
  · exact .kept rfl
  · obtain hm | ⟨-, hu, index, buf, rfl, hb, l, hl, hm⟩ := exec_memory he
    · exact .kept hm
    · exact .spoilt _ l (.inr (.inr ⟨hi, hu, o, index, buf, ho, hd, hb, rfl⟩)) hl hm
  · exact .kept rfl
  · obtain hm | ⟨hp, b, n, htd, hm⟩ | ⟨hp, hc, hf, hm⟩ | ⟨ho, hc, hm⟩ := advance_memory ha
    · exact .kept hm
    · exact .word b n hp htd hm
    · exact .spoilt _ _ (.inl ⟨hp, hc, hf, rfl⟩) (scribble_take_length _) hm
    · exact .spoilt _ _ (.inr (.inl ⟨hc, .inl ho, rfl⟩)) (scribble_take_length _) hm

/-- Settles O51: both ways a step writes client memory keep the canonical form. -/
theorem memoryStaysCanonical : Obligations.MemoryStaysCanonical := by
  intro s t hw h
  cases step_memory h with
  | kept hm => rwa [hm]
  | word _ _ _ _ hm => rw [hm]; exact memory_wf_writeLE _ _ _ _ hw
  | spoilt _ _ _ _ hm => rw [hm]; exact memory_wf_scribble _ _ _ hw

/-- The step may store to every byte of a buffer it spoils. -/
theorem spoils.mayStore {h : Word} {a : Nat} (hs : spoils s h) (ha : inBuffer h a) : mayStore s a := by
  obtain ⟨hp, hc, hf, rfl⟩ | ⟨hc, hw, rfl⟩ | ⟨hi, hu, o, index, buf, ho, hd, hl, rfl⟩ := hs
  · exact .inr (.inl ⟨hp, hc, hf, ha⟩)
  · exact .inr (.inr (.inl ⟨hc, hw, ha⟩))
  · exact .inr (.inr (.inr ⟨hi, hu, o, index, buf, ho, hd, hl, ha⟩))

/-- A byte the step may not store to reads as before. -/
theorem step_memory_frame {a : Nat} (h : step s = .next t) (ha : ¬ mayStore s a) :
    t.mem.read a = s.mem.read a := by
  cases step_memory h with
  | kept hm => rw [hm]
  | word b n hp htd hm =>
    have hout : ¬ (bufferWord s.cfg b s.wrk.cursor ≤ a ∧ a < bufferWord s.cfg b s.wrk.cursor + s.cfg.w.bytes) :=
      fun hin => ha (.inl ⟨hp, b, n, htd, hin⟩)
    rw [hm]; exact memory_read_writeLE_ne _ _ _ _ _ (by omega)
  | spoilt b l hs hl hm =>
    have hout : ¬ inBuffer b a := fun hin => ha (hs.mayStore hin)
    unfold inBuffer at hout
    rw [hm]; exact memory_read_scribble_ne _ _ _ _ (by omega)

/-- A word of a 512-byte buffer lies inside it (42 R177). -/
theorem inBuffer_of_word {p : Params} {h : Word} {k a : Nat} (hk : k < p.blockWords)
    (ha : bufferWord p h k ≤ a) (ha' : a < bufferWord p h k + p.w.bytes) : inBuffer h a := by
  have hend : (k + 1) * p.w.bytes ≤ blockBytes :=
    (Nat.mul_le_mul_right _ hk).trans (Nat.div_mul_le_self _ _)
  rw [Nat.succ_mul] at hend
  unfold bufferWord at ha ha'
  exact ⟨by omega, by omega⟩

/-- The pump moves a client word only while it lies inside the buffer. -/
theorem PumpInv.cursor_lt_blockWords (hi : PumpInv s) (hp : s.ph.phase = .pumpMove) {h : Word} {n : Nat}
    (htd : s.wrk.td = .read (.client h) n) : s.wrk.cursor < s.cfg.blockWords := by
  have hlt := hi.move_lt hp
  have hsized := hi.sized
  rw [htd] at hlt hsized
  exact hlt.trans_eq (beq_iff_eq.mp hsized)

/-- Under the pump invariant a byte a step may store to lies in a borrowed buffer. -/
theorem PumpInv.mayStore_borrowed (hi : PumpInv s) {a : Nat} (h : mayStore s a) :
    (s.ph.phase = .pumpMove ∧ ∃ h n, s.wrk.td = .read (.client h) n ∧ inBuffer h a) ∨
    (s.ph.ctx = .readBlock ∧ inBuffer s.wrk.buf a) ∨
    (s.isIdle = true ∧ ∃ o index buf, s.port = some o ∧
      decode o = .ok (.readBlock index buf) ∧ inBuffer buf.handle a) := by
  obtain ⟨hp, b, n, htd, hlo, hhi⟩ | ⟨-, hc, -, ha⟩ | ⟨hc, -, ha⟩ | ⟨hidle, -, o, index, buf, ho, hd, -, ha⟩ := h
  · exact .inl ⟨hp, b, n, htd, inBuffer_of_word (hi.cursor_lt_blockWords hp htd) hlo hhi⟩
  · exact .inr (.inl ⟨hc, ha⟩)
  · exact .inr (.inl ⟨hc, ha⟩)
  · exact .inr (.inr ⟨hidle, o, index, buf, ho, hd, ha⟩)

/-- Settles O52: a byte that changes is one the step may store to, and the pump invariant puts it in the buffer. -/
theorem memoryFrame : Obligations.MemoryFrame :=
  ⟨fun _ _ _ h ha => step_memory_frame h ha,
    fun _ _ _ hi h hne => hi.mayStore_borrowed (by_contra fun ha => hne (step_memory_frame h ha))⟩

end Sys2Proof.Machine
end

