-- ==== Sys2Proof/Proofs/Encoding.lean ====
section
/-! SUPPORT. Proofs of the statements of 30_encoding.md: the typed register views (R91), the decoder and the encoder of
operations (R114 to R117), the printed CMD values (R116), and the acceptance of a command row with no data phase
(R107). -/

namespace Sys2Proof

open Machine

/-! ## One field of a word -/

theorem getField_or (x y : Word) (lo w : Nat) : getField (x ||| y) lo w = getField x lo w ||| getField y lo w :=
  BitVec.extractLsb'_or

theorem getField_zero (lo w : Nat) : getField 0 lo w = 0 := BitVec.extractLsb'_zero

theorem getField_putField {lo w : Nat} (h : lo + w ≤ 32) (v : BitVec w) : getField (putField lo v) lo w = v := by
  simpa using getField_replace h 0 v

theorem getField_putField_apart {lo w lo' w' : Nat} (h : apart (lo, w) (lo', w') = true) (v : BitVec w') :
    getField (putField lo' v) lo w = 0 := by
  apply BitVec.eq_of_getLsbD_eq
  intro k hk
  have hbit : apart (lo + k, 1) (lo', w') = true := by
    simp only [apart, Bool.or_eq_true, decide_eq_true_eq] at h ⊢; omega
  simp [getField, putField_bit_apart v hbit]

/-- A field cut out of a word and put back keeps exactly the bits of its mask. -/
theorem putField_getField (x : Word) (lo w : Nat) : putField lo (getField x lo w) = x &&& fieldMask lo w := by
  apply BitVec.eq_of_getLsbD_eq
  intro k hk
  rw [BitVec.getLsbD_and, fieldMask, putField_bit, putField_bit, getField, BitVec.getLsbD_extractLsb',
    BitVec.getLsbD_allOnes]
  grind

/-! ## Several fields of a word (R91, R92) -/

/-- A field of a register: its lowest bit, its width and its value. -/
structure Placed where
  lo : Nat
  width : Nat
  value : BitVec width

/-- The field as (lowest bit, width). -/
def Placed.range (p : Placed) : Nat × Nat := (p.lo, p.width)

/-- The term of the field in `enc_T`. -/
def Placed.term (p : Placed) : Word := putField p.lo p.value

/-- The field has its value in `x`. -/
def Placed.In (x : Word) (p : Placed) : Prop := getField x p.lo p.width = p.value

/-- The OR of the terms of several fields, associated as the encoders of the model write it. -/
def encPlaced : List Placed → Word
  | [] => 0
  | p :: ps => ps.foldl (fun x q => x ||| q.term) p.term

theorem foldl_or_term (x : Word) (ps : List Placed) :
    ps.foldl (fun x q => x ||| q.term) x = x ||| encPlaced ps := by
  induction ps generalizing x with
  | nil => exact BitVec.or_zero.symm
  | cons q qs ih => rw [List.foldl_cons, ih, encPlaced, ih, BitVec.or_assoc]

theorem encPlaced_cons (p : Placed) (ps : List Placed) : encPlaced (p :: ps) = p.term ||| encPlaced ps :=
  foldl_or_term p.term ps

theorem getField_encPlaced_apart {lo w : Nat} {ps : List Placed}
    (h : ∀ p ∈ ps, apart (lo, w) p.range = true) : getField (encPlaced ps) lo w = 0 := by
  induction ps with
  | nil => exact getField_zero lo w
  | cons p ps ih =>
    obtain ⟨hp, hps⟩ := List.forall_mem_cons.mp h
    rw [encPlaced_cons, getField_or, Placed.term, getField_putField_apart hp, ih hps, BitVec.or_self]

/-- Fields that lie inside the register and apart from each other are read back. -/
theorem in_encPlaced {ps : List Placed} (h : rangesOk 32 (ps.map Placed.range) = true) :
    ∀ p ∈ ps, p.In (encPlaced ps) := by
  induction ps with
  | nil => exact List.forall_mem_nil _
  | cons p ps ih =>
    simp only [rangesOk, pairwiseApart, List.map_cons, List.all_cons, Bool.and_eq_true, decide_eq_true_eq] at h
    obtain ⟨⟨hin, hins⟩, hapart, haparts⟩ := h
    rw [List.all_map, List.all_eq_true] at hapart
    have hrest : ∀ q ∈ ps, q.In (encPlaced ps) := ih (Bool.and_eq_true_iff.mpr ⟨hins, haparts⟩)
    refine List.forall_mem_cons.mpr ⟨?_, fun q hq => ?_⟩
    · have hown : getField p.term p.lo p.width = p.value := getField_putField hin p.value
      rw [Placed.In, encPlaced_cons, getField_or, hown, getField_encPlaced_apart hapart]
      exact BitVec.or_zero
    · have hpq : apart q.range p.range = true := (apart_comm _ _).trans (hapart q hq)
      rw [Placed.In, encPlaced_cons, getField_or, Placed.term, getField_putField_apart hpq, hrest q hq]
      exact BitVec.zero_or

/-- The terms of fields read from `x` are the bits of `x` in those fields. -/
theorem encPlaced_of_in {x : Word} {ps : List Placed} (h : ∀ p ∈ ps, p.In x) :
    encPlaced ps = x &&& rangesMask (ps.map Placed.range) := by
  induction ps with
  | nil => exact BitVec.and_zero.symm
  | cons p ps ih =>
    obtain ⟨hp, hps⟩ := List.forall_mem_cons.mp h
    have hterm : p.term = x &&& fieldMask p.lo p.width := by rw [Placed.term, ← hp, putField_getField]
    rw [encPlaced_cons, hterm, ih hps, ← BitVec.and_or_distrib_left]
    rfl

/-- `dec` and `enc` are the two directions of a typed view: they read and write the same fields, in the same places. -/
structure FieldView {F : Type} (dec : Word → F) (enc : F → Word) (ranges : List (Nat × Nat))
    (placed : F → List Placed) : Prop where
  ranges_eq : ∀ f, (placed f).map Placed.range = ranges
  enc_eq : ∀ f, enc f = encPlaced (placed f)
  dec_eq_iff : ∀ x f, dec x = f ↔ ∀ p ∈ placed f, p.In x

section
variable {F : Type} {dec : Word → F} {enc : F → Word} {ranges : List (Nat × Nat)} {placed : F → List Placed}

theorem FieldView.dec_enc (v : FieldView dec enc ranges placed) (h : rangesOk 32 ranges = true) (f : F) :
    dec (enc f) = f := by
  rw [v.dec_eq_iff, v.enc_eq]
  exact in_encPlaced (by rw [v.ranges_eq, h])

theorem FieldView.enc_dec (v : FieldView dec enc ranges placed) (x : Word) :
    enc (dec x) = x &&& rangesMask ranges := by
  rw [v.enc_eq, encPlaced_of_in ((v.dec_eq_iff x _).mp rfl), v.ranges_eq]

end

/-! ## The fourteen registers with named fields (R93 to R105) -/

/-- The one field of a register in its place. -/
def placedOne {F : Type} {w : Nat} (lo : Nat) (value : F → BitVec w) (f : F) : List Placed := [⟨lo, w, value f⟩]

/-- A register with one field, whose record is made (`mk`) of that field's value alone. -/
theorem fieldView_one {F : Type} {lo w : Nat} {value : F → BitVec w} {mk : BitVec w → F}
    (hvalue : ∀ v, value (mk v) = v) (hmk : ∀ f, mk (value f) = f) :
    FieldView (fun x => mk (getField x lo w)) (fun f => putField lo (value f)) [(lo, w)] (placedOne lo value) where
  ranges_eq _ := rfl
  enc_eq _ := rfl
  dec_eq_iff x f := by
    rw [placedOne, List.forall_mem_singleton, Placed.In]
    constructor
    · rintro rfl; exact (hvalue _).symm
    · intro h; rw [h, hmk]

/-- The fields of CTRL in their places (R93). -/
def Layout.placedCtrl (l : Layout) (f : CtrlFields) : List Placed :=
  [⟨l.ctrl.controllerReset, 1, f.controllerReset⟩, ⟨l.ctrl.fifoReset, 1, f.fifoReset⟩,
    ⟨l.ctrl.dmaReset, 1, f.dmaReset⟩, ⟨l.ctrl.intEnable, 1, f.intEnable⟩]

theorem fieldView_ctrl (l : Layout) : FieldView (decCtrl l) (encCtrl l) l.rangesCtrl l.placedCtrl :=
  ⟨fun _ => rfl, fun _ => rfl, fun _ f => by cases f; simp [decCtrl, Layout.placedCtrl, Placed.In]⟩

/-- PWREN (R94). -/
theorem fieldView_pwren (l : Layout) : FieldView (decPwren l) (encPwren l) l.rangesPwren
    (placedOne l.pwrenPowerEnable PwrenFields.powerEnable) :=
  fieldView_one (mk := PwrenFields.mk) (fun _ => rfl) (fun _ => rfl)

/-- CLKDIV (R95). -/
theorem fieldView_clkdiv (l : Layout) : FieldView (decClkdiv l) (encClkdiv l) l.rangesClkdiv
    (placedOne l.clkdivDivider ClkdivFields.divider) :=
  fieldView_one (mk := ClkdivFields.mk) (fun _ => rfl) (fun _ => rfl)

/-- CLKENA (R96). -/
theorem fieldView_clkena (l : Layout) : FieldView (decClkena l) (encClkena l) l.rangesClkena
    (placedOne l.clkenaCclkEnable ClkenaFields.cclkEnable) :=
  fieldView_one (mk := ClkenaFields.mk) (fun _ => rfl) (fun _ => rfl)

/-- The fields of CTYPE in their places (R97). -/
def Layout.placedCtype (l : Layout) (f : CtypeFields) : List Placed :=
  [⟨l.ctype.width4, 1, f.width4⟩, ⟨l.ctype.width8, 1, f.width8⟩]

theorem fieldView_ctype (l : Layout) : FieldView (decCtype l) (encCtype l) l.rangesCtype l.placedCtype :=
  ⟨fun _ => rfl, fun _ => rfl, fun _ f => by cases f; simp [decCtype, Layout.placedCtype, Placed.In]⟩

/-- BLKSIZ (R98). -/
theorem fieldView_blksiz (l : Layout) : FieldView (decBlksiz l) (encBlksiz l) l.rangesBlksiz
    (placedOne l.blksizBlockSize BlksizFields.blockSize) :=
  fieldView_one (mk := BlksizFields.mk) (fun _ => rfl) (fun _ => rfl)

/-- BYTCNT (R99). -/
theorem fieldView_bytcnt (l : Layout) : FieldView (decBytcnt l) (encBytcnt l) l.rangesBytcnt
    (placedOne l.bytcntByteCount BytcntFields.byteCount) :=
  fieldView_one (mk := BytcntFields.mk) (fun _ => rfl) (fun _ => rfl)

/-- The fields of CMD in their places (R100). -/
def Layout.placedCmd (l : Layout) (f : CmdFields) : List Placed :=
  [⟨l.cmd.start, 1, f.start⟩, ⟨l.cmd.cardIndex, 5, f.cardIndex⟩, ⟨l.cmd.sendInit, 1, f.sendInit⟩,
    ⟨l.cmd.direction, 1, f.direction⟩, ⟨l.cmd.dataExpected, 1, f.dataExpected⟩,
    ⟨l.cmd.checkCrc, 1, f.checkCrc⟩, ⟨l.cmd.responseLength, 1, f.responseLength⟩,
    ⟨l.cmd.responseExpect, 1, f.responseExpect⟩, ⟨l.cmd.index, 6, f.index⟩]

theorem fieldView_cmd (l : Layout) : FieldView (decCmd l) (encCmd l) l.rangesCmd l.placedCmd :=
  ⟨fun _ => rfl, fun _ => rfl, fun _ f => by cases f; simp [decCmd, Layout.placedCmd, Placed.In]⟩

/-- The fields of RINTSTS in their places (R101). -/
def Layout.placedRintsts (l : Layout) (f : RintstsFields) : List Placed :=
  [⟨l.rintsts.cardDetect, 1, f.cardDetect⟩, ⟨l.rintsts.responseError, 1, f.responseError⟩,
    ⟨l.rintsts.commandDone, 1, f.commandDone⟩, ⟨l.rintsts.dataTransferOver, 1, f.dataTransferOver⟩,
    ⟨l.rintsts.txDataRequest, 1, f.txDataRequest⟩, ⟨l.rintsts.rxDataRequest, 1, f.rxDataRequest⟩,
    ⟨l.rintsts.responseCrcError, 1, f.responseCrcError⟩, ⟨l.rintsts.dataCrcError, 1, f.dataCrcError⟩,
    ⟨l.rintsts.responseTimeout, 1, f.responseTimeout⟩, ⟨l.rintsts.dataTimeout, 1, f.dataTimeout⟩,
    ⟨l.rintsts.hostTimeout, 1, f.hostTimeout⟩, ⟨l.rintsts.fifoRunError, 1, f.fifoRunError⟩,
    ⟨l.rintsts.hardwareLockedError, 1, f.hardwareLockedError⟩, ⟨l.rintsts.startBitError, 1, f.startBitError⟩,
    ⟨l.rintsts.autoCommandDone, 1, f.autoCommandDone⟩, ⟨l.rintsts.endBitError, 1, f.endBitError⟩]

theorem fieldView_rintsts (l : Layout) : FieldView (decRintsts l) (encRintsts l) l.rangesRintsts l.placedRintsts :=
  ⟨fun _ => rfl, fun _ => rfl, fun _ f => by cases f; simp [decRintsts, Layout.placedRintsts, Placed.In]⟩

/-- The fields of STATUS in their places (R102). -/
def Layout.placedStatus (l : Layout) (f : StatusFields) : List Placed :=
  [⟨l.status.dataBusy, 1, f.dataBusy⟩, ⟨l.status.fifoCount, 13, f.fifoCount⟩]

theorem fieldView_status (l : Layout) : FieldView (decStatus l) (encStatus l) l.rangesStatus l.placedStatus :=
  ⟨fun _ => rfl, fun _ => rfl, fun _ f => by cases f; simp [decStatus, Layout.placedStatus, Placed.In]⟩

/-- CDETECT (R103). -/
theorem fieldView_cdetect (l : Layout) : FieldView (decCdetect l) (encCdetect l) l.rangesCdetect
    (placedOne l.cdetectCardDetectN CdetectFields.cardDetectN) :=
  fieldView_one (mk := CdetectFields.mk) (fun _ => rfl) (fun _ => rfl)

/-- The fields of BMOD in their places (R104). -/
def Layout.placedBmod (l : Layout) (f : BmodFields) : List Placed :=
  [⟨l.bmod.softwareReset, 1, f.softwareReset⟩, ⟨l.bmod.fixedBurst, 1, f.fixedBurst⟩,
    ⟨l.bmod.skipLength, 5, f.skipLength⟩, ⟨l.bmod.idmacEnable, 1, f.idmacEnable⟩,
    ⟨l.bmod.burstLength, 3, f.burstLength⟩]

theorem fieldView_bmod (l : Layout) : FieldView (decBmod l) (encBmod l) l.rangesBmod l.placedBmod :=
  ⟨fun _ => rfl, fun _ => rfl, fun _ f => by cases f; simp [decBmod, Layout.placedBmod, Placed.In]⟩

/-- DBADDRL (R105). -/
theorem fieldView_dbaddrl (l : Layout) : FieldView (decDbaddrl l) (encDbaddrl l) l.rangesDbaddrl
    (placedOne l.dbaddrlAddr DbaddrlFields.addr) :=
  fieldView_one (mk := DbaddrlFields.mk) (fun _ => rfl) (fun _ => rfl)

/-- DBADDRU (R105). -/
theorem fieldView_dbaddru (l : Layout) : FieldView (decDbaddru l) (encDbaddru l) l.rangesDbaddru
    (placedOne l.dbaddruAddr DbaddruFields.addr) :=
  fieldView_one (mk := DbaddruFields.mk) (fun _ => rfl) (fun _ => rfl)

/-! ## The typed views together (R91, R92) -/

/-- Fields that fit in a part of the register fit in the register (RINTSTS, R101). -/
theorem rangesOk_mono {m n : Nat} (hmn : m ≤ n) {rs : List (Nat × Nat)} (h : rangesOk m rs = true) :
    rangesOk n rs = true := by
  obtain ⟨hin, hapart⟩ := Bool.and_eq_true_iff.mp h
  refine Bool.and_eq_true_iff.mpr ⟨List.all_eq_true.mpr fun p hp => ?_, hapart⟩
  exact decide_eq_true ((of_decide_eq_true (List.all_eq_true.mp hin p hp)).trans hmn)

/-- The reserved bits are zero exactly when the mask keeps the word. -/
theorem and_eq_self_iff_and_not_eq_zero (x m : Word) : x &&& m = x ↔ x &&& ~~~m = 0 := by
  constructor
  · intro h
    rw [← h, BitVec.and_assoc, BitVec.and_not_self]
    exact BitVec.and_zero
  · intro h
    calc x &&& m = x &&& m ||| x &&& ~~~m := by rw [h]; exact BitVec.or_zero.symm
      _ = x := by rw [← BitVec.and_or_distrib_left, BitVec.or_not_self, BitVec.and_allOnes]

/-- Settles O4: every register is a `FieldView`, whose two directions are each other's inverse on its mask. -/
theorem typedViewsRoundTrip : Obligations.TypedViewsRoundTrip := by
  refine ⟨fun l hl => ?_, and_eq_self_iff_and_not_eq_zero⟩
  simp only [Layout.wf, Bool.and_eq_true, and_assoc] at hl
  obtain ⟨hctrl, hpwren, hclkdiv, hclkena, hctype, hblksiz, hbytcnt, hcmd, hrintsts, hstatus, hcdetect,
    hbmod, hdbaddrl, hdbaddru⟩ := hl
  exact ⟨(fieldView_ctrl l).dec_enc hctrl, (fieldView_ctrl l).enc_dec,
    (fieldView_pwren l).dec_enc hpwren, (fieldView_pwren l).enc_dec,
    (fieldView_clkdiv l).dec_enc hclkdiv, (fieldView_clkdiv l).enc_dec,
    (fieldView_clkena l).dec_enc hclkena, (fieldView_clkena l).enc_dec,
    (fieldView_ctype l).dec_enc hctype, (fieldView_ctype l).enc_dec,
    (fieldView_blksiz l).dec_enc hblksiz, (fieldView_blksiz l).enc_dec,
    (fieldView_bytcnt l).dec_enc hbytcnt, (fieldView_bytcnt l).enc_dec,
    (fieldView_cmd l).dec_enc hcmd, (fieldView_cmd l).enc_dec,
    (fieldView_rintsts l).dec_enc (rangesOk_mono (by decide) hrintsts), (fieldView_rintsts l).enc_dec,
    (fieldView_status l).dec_enc hstatus, (fieldView_status l).enc_dec,
    (fieldView_cdetect l).dec_enc hcdetect, (fieldView_cdetect l).enc_dec,
    (fieldView_bmod l).dec_enc hbmod, (fieldView_bmod l).enc_dec,
    (fieldView_dbaddrl l).dec_enc hdbaddrl, (fieldView_dbaddrl l).enc_dec,
    (fieldView_dbaddru l).dec_enc hdbaddru, (fieldView_dbaddru l).enc_dec, fun _ => rfl⟩

/-! ## The rows of the opcode table (R114, R116) -/

/-- The bits of the table's word that tell the rows of a format apart. -/
def Format.rowMask : Format → Word
  | .cmdreg => cmdTableMask
  | .clientop => 3

/-- The instruction of the same row with the operands that stand beside the table's word in `o`. -/
def Instr.withOperands (o : OpWords) : Instr → Instr
  | .readSingleBlock _ _ => .readSingleBlock o.w1 o.w2
  | .writeSingleBlock _ _ => .writeSingleBlock o.w1 o.w2
  | .appCmd _ => .appCmd o.w1
  | .readBlock _ _ => .readBlock o.w1 ⟨o.w2, o.w3⟩
  | .writeBlock _ _ => .writeBlock o.w1 ⟨o.w2, o.w3⟩
  | i => i

/-- `o` is presented in the row of `i`, and `i` has its operands. -/
structure OpWords.Presents (o : OpWords) (i : Instr) : Prop where
  format_eq : o.format = (encode i).format
  word_eq : o.w0 &&& o.format.rowMask = (encode i).w0 &&& o.format.rowMask
  operands_eq : i.withOperands o = i

/-- The code of a client operation under the mask of its format. -/
theorem and_three_of_code {w : Word} {k : BitVec 2} (h : w.extractLsb' 0 2 = k) : w &&& 3 = putField 0 k :=
  h ▸ (putField_getField w 0 2).symm

/-- One row of the decoder. -/
theorem presents_of_row {c : Prop} [Decidable c] {o : OpWords} {i j : Instr} {rest : Except Reject Instr}
    (hrow : c → o.Presents j) (hrest : rest = .ok i → o.Presents i)
    (h : (if c then .ok j else rest) = .ok i) : o.Presents i := by
  split at h
  · next hc => cases h; exact hrow hc
  · exact hrest h

theorem presents_of_decodeCmdreg {w0 w1 w2 w3 : Word} {i : Instr} :
    decodeCmdreg w0 w1 w2 = .ok i → OpWords.Presents ⟨.cmdreg, w0, w1, w2, w3⟩ i := by
  unfold decodeCmdreg
  iterate 12 refine presents_of_row (fun hw => ⟨rfl, hw.trans (by dsimp only [encode]; decide), rfl⟩) ?_
  exact nofun

theorem presents_of_decodeClientop {w0 w1 w2 w3 : Word} {i : Instr} :
    decodeClientop w0 w1 w2 w3 = .ok i → OpWords.Presents ⟨.clientop, w0, w1, w2, w3⟩ i := by
  unfold decodeClientop
  iterate 3
    refine presents_of_row (fun hw => ⟨rfl, (and_three_of_code hw).trans (by dsimp only [encode]; decide), rfl⟩) ?_
  exact nofun

/-- What decodes to `i` is presented in the row of `i` with the operands of `i`. -/
theorem presents_of_decode {o : OpWords} {i : Instr} (h : decode o = .ok i) : o.Presents i := by
  obtain ⟨_ | _, w0, w1, w2, w3⟩ := o
  · exact presents_of_decodeCmdreg h
  · exact presents_of_decodeClientop h

/-- The decoder hands the operand words on and looks at the table's word alone. -/
theorem decode_operands (f : Format) (w0 w1 w2 w3 : Word) :
    decode ⟨f, w0, w1, w2, w3⟩ = (decode ⟨f, w0, 0, 0, 0⟩).map (Instr.withOperands ⟨f, w0, w1, w2, w3⟩) := by
  cases f with
  | cmdreg => simp only [decode, decodeCmdreg, apply_ite (Except.map _)]; rfl
  | clientop => simp only [decode, decodeClientop, apply_ite (Except.map _)]; rfl

/-- A row recognised with operands 0 is recognised with any. -/
theorem decode_of_row {f : Format} {w0 : Word} {i : Instr} (h : decode ⟨f, w0, 0, 0, 0⟩ = .ok i) (w1 w2 w3 : Word) :
    decode ⟨f, w0, w1, w2, w3⟩ = .ok (i.withOperands ⟨f, w0, w1, w2, w3⟩) := by
  rw [decode_operands, h]; rfl

theorem decode_encode (i : Instr) : decode (encode i) = .ok i := by
  cases i with
  | readSingleBlock index buf => exact decode_of_row (i := .readSingleBlock 0 0) rfl index buf 0
  | writeSingleBlock index buf => exact decode_of_row (i := .writeSingleBlock 0 0) rfl index buf 0
  | appCmd arg => exact decode_of_row (i := .appCmd 0) rfl arg 0 0
  | readBlock index buf => exact decode_of_row (i := .readBlock 0 ⟨0, 0⟩) rfl index buf.handle buf.len
  | writeBlock index buf => exact decode_of_row (i := .writeBlock 0 ⟨0, 0⟩) rfl index buf.handle buf.len
  | _ => rfl

/-- The table's word of a client operation is its 2-bit code. -/
theorem encode_clientop_w0 {i : Instr} (h : (encode i).format = .clientop) :
    (encode i).w0 = (encode i).w0 &&& 3 := by
  cases i <;> simp [encode] at h ⊢

theorem Instr.wf_eq_true (i : Instr) : i.wf = true := by cases i <;> rfl

/-- Settles O1: `decode_encode` and the inversion `presents_of_decode`, whose three parts are the format, the masked
word and the operands. -/
theorem decodeEncodeAgree : Obligations.DecodeEncodeAgree := by
  refine ⟨fun i _ => decode_encode i, fun o i h => ?_⟩
  obtain ⟨hformat, hword, hops⟩ := presents_of_decode h
  refine ⟨i.wf_eq_true, hformat.symm, fun hf => ?_, ?_, ?_, ?_, fun hf => ?_⟩
  · rw [hf] at hword; exact hword.symm
  · rintro index buf (rfl | rfl) <;> cases hops <;> exact ⟨rfl, rfl, rfl⟩
  · rintro index buf (rfl | rfl) <;> cases hops <;> exact ⟨rfl, rfl⟩
  · rintro arg rfl; cases hops; rfl
  · rw [hf] at hword hformat
    exact (encode_clientop_w0 hformat.symm).trans hword.symm

theorem decodeTableWord_of_encode {n w : Nat} {i : Instr} (h : tableWords n w = encode i) :
    decodeTableWord n w = some i := by
  rw [decodeTableWord, h, decode_encode]

/-- Settles O2: eight words are encodings, the other two are in no row. -/
theorem tableWordsDecode : Obligations.TableWordsDecode :=
  ⟨decodeTableWord_of_encode rfl, decodeTableWord_of_encode rfl, decodeTableWord_of_encode rfl,
    decodeTableWord_of_encode rfl, decodeTableWord_of_encode rfl, rfl, decodeTableWord_of_encode rfl,
    decodeTableWord_of_encode rfl, decodeTableWord_of_encode rfl, rfl⟩

/-! ## The CMD values (R116) -/

/-- The CMD value R116 prints for a command. -/
def CardCmd.printedValue : CardCmd → Word
  | .goIdleState => 0x80008000
  | .allSendCid => 0x800000C2
  | .sendRelativeAddr => 0x80000143
  | .selectCard => 0x80000147
  | .sendIfCond => 0x80000148
  | .sendCsd => 0x80000049
  | .readSingleBlock => 0x80000351
  | .writeSingleBlock => 0x80000758
  | .sdSendOpCond => 0x80000069
  | .sendScr => 0x80000373
  | .appCmd => 0x80000177

theorem cardValue_of_printed {p : Params} (h : p.printed) (c : CardCmd) : cardValue p c = c.printedValue := by
  obtain ⟨hl, he⟩ := h
  rw [cardValue, hl, he]
  cases c <;> decide

theorem cmdFields_cardIndex (c : CardCmd) : c.fields.cardIndex = 0 := by cases c <;> rfl

theorem cmdFields_index (c : CardCmd) : c.fields.index = c.opcode := by cases c <;> rfl

/-- One row of the decoder recognises a word, or a later one does. -/
theorem exists_ite_ok {c : Prop} [Decidable c] {i : Instr} {e : Except Reject Instr} :
    (∃ j, (if c then .ok i else e) = .ok j) ↔ c ∨ ∃ j, e = .ok j := by
  by_cases h : c <;> simp [h]

/-- Settles O3: the printed values by `cardValue_of_printed`, the decoder row by row (`exists_ite_ok`). -/
theorem commandValuesAndDecoder : Obligations.CommandValuesAndDecoder := by
  refine ⟨fun p hp => ?_, rfl, fun p c => ⟨rfl, cmdFields_start c, cmdFields_cardIndex c, cmdFields_index c⟩,
    fun w0 w1 w2 w3 => ?_⟩
  · simp only [cardValue_of_printed hp, CardCmd.printedValue, and_self]
  · simp only [decode, decodeCmdreg, exists_ite_ok, reduceCtorEq, exists_false, List.mem_cons, List.not_mem_nil]
    rfl

/-! ## A command row with no data phase (R107) -/

section
variable {s : State} {i : Instr} {c : CardCmd} {v a : Word}

/-- A row with no data phase starts the exchange of its command with the argument of R107. -/
theorem exec_of_plainExchange (h : plainExchange s i = some (c, v, a)) :
    exec i s = accept s (startXchg c a .none .bare s) := by
  cases i <;> cases h <;> rfl

theorem printedValue_of_plainExchange (h : plainExchange s i = some (c, v, a)) : c.printedValue = v := by
  cases i <;> cases h <;> rfl

end

/-- Settles O10: each row starts the exchange of its command, and the table prints that command's value. -/
theorem plainCommandsStart : Obligations.PlainCommandsStart := fun s _ c _ a hidle h =>
  ⟨(exec_of_plainExchange h).trans (accept_idle hidle (startXchg c a .none .bare s)),
    fun hp => (cardValue_of_printed hp c).trans (printedValue_of_plainExchange h)⟩

end Sys2Proof
end

section
/-! SUPPORT. Proofs of the statements of 40_register_access.md: the end of a reset request (R138), and the states of INIT
that lead from it to VoltageCheck (44_init_state_machine.md R223 to R227). -/

namespace Sys2Proof.Machine

variable {s : State}

/-! ## Which part of the machine a step in progress runs -/

theorem step_waitStep {w : WaitFor} {stage : WaitStage} (hs : s.running) (hp : s.ph.phase = .wait w stage) :
    step s = .next (waitStep w stage s) := by
  rw [step_running hs, advance, hp]

theorem step_returned (hs : s.running) (hp : s.ph.phase = .returned) : step s = .next (resume s) := by
  rw [step_running hs, advance, hp]

theorem step_busWidth (hs : s.running) (hp : s.ph.phase = .busWidth) : step s = .next (busWidth s) := by
  rw [step_running hs, advance, hp]

/-! ## The bounded wait and the end of a reset request (40 R138) -/

/-- A poll that reads the condition ends the wait (42 R171). -/
theorem waitPoll_met {w : WaitFor} (h : w.holds s.cfg.layout (readVal w.reg s) = true) :
    waitPoll w s = waitMet w (noteSnap w.reg (readVal w.reg s) (readReg w.reg s)) := if_pos h

/-- The state after a poll that ends a reset request. -/
def resetAnswered (s : State) : State := finish .done (noteSnap .ctrl (readVal .ctrl s) (readReg .ctrl s))

/-- The poll that reads the requested bit 0 ends the reset request. -/
theorem step_resetPoll {f : ResetBit} (hs : s.running) (hp : s.ph.phase = .wait (.reset f) .poll)
    (hbit : f.reads s.cfg.layout (readVal .ctrl s) = false) : step s = .next (resetAnswered s) := by
  have hmet : (WaitFor.reset f).holds s.cfg.layout (readVal .ctrl s) = true := congrArg (!·) hbit
  exact (step_waitStep hs hp).trans (congrArg _ (waitPoll_met hmet))

theorem resetCtx_alone (f : ResetBit) : (resetCtx f).alone = false := by cases f <;> rfl

/-- An exchange, pulse or reset request that a client operation started returns to it. -/
theorem finish_returned (r : OpResult) (h : s.ph.ctx.alone = false) :
    (finish r s).ph.phase = .returned ∧ (finish r s).ph.ctx = s.ph.ctx := by
  simp [h]

/-! ## BusWidthInit (44 R224) -/

theorem putField_zero (lo w : Nat) : putField lo (0 : BitVec w) = 0 := by simp [putField]

/-- A one-bit card bus is the value 0 under every layout. -/
theorem encCtype_narrow (l : Layout) : encCtype l { width4 := 0, width8 := 0 } = 0 := by
  simp only [encCtype, putField_zero, BitVec.or_self]

theorem busWidth_eq (s : State) :
    busWidth s = startReset .dma .dmaReset ((writeReg .ctype 0 s).enter .dmaReset) := by
  rw [busWidth, encCtype_narrow]

/-! ## What follows a reset request and GO_IDLE_STATE (44 R223 to R227) -/

theorem step_fifoResetDone (hs : s.running) (hp : s.ph.phase = .returned) (hc : s.ph.ctx = .fifoReset)
    (hr : s.result = some .done) : step s = .next ((s.enter .busWidthInit).goto .busWidth) := by
  rw [step_returned hs hp, resume, hc]
  exact congrArg _ (if_pos (congrArg resultDone hr))

theorem step_dmaResetDone (hs : s.running) (hp : s.ph.phase = .returned) (hc : s.ph.ctx = .dmaReset)
    (hr : s.result = some .done) : step s = .next (startXchg .goIdleState 0 .none .goIdle (s.enter .idle)) := by
  rw [step_returned hs hp, resume, hc]
  exact congrArg _ (if_pos (congrArg resultDone hr))

theorem step_goIdleOk {r0 r1 r2 r3 : Word} (hs : s.running) (hp : s.ph.phase = .returned)
    (hc : s.ph.ctx = .goIdle) (hr : s.result = some (.xchg (.ok r0 r1 r2 r3))) :
    step s = .next (startXchg .sendIfCond ifCondArg .none .voltage (s.enter .voltageCheck)) := by
  rw [step_returned hs hp, resume, hc]
  simp only [afterGoIdle, hr, resultOutcome, issueSendIfCond_eq]

/-- Settles O56: each clause is the step of one state, `step_resetPoll` to `step_goIdleOk`, and BusWidthInit writes 0 by
`busWidth_eq`. -/
theorem resetsLeadToVoltageCheck : Obligations.ResetsLeadToVoltageCheck := by
  refine ⟨fun s f hs hp hbit => ?poll, fun s hs hp hc hr => step_fifoResetDone hs hp hc hr, fun s hs hp => ?width,
    fun s hs hp hc hr => step_dmaResetDone hs hp hc hr, fun s r0 r1 r2 r3 hs hp hc hr => step_goIdleOk hs hp hc hr⟩
  case poll =>
    refine ⟨resetAnswered s, step_resetPoll hs hp hbit, rfl, rfl, fun hctx => ?_, rfl, rfl, rfl, rfl⟩
    exact finish_returned .done (hctx ▸ resetCtx_alone f)
  case width =>
    refine ⟨_, step_busWidth hs hp, ?_⟩
    rw [busWidth_eq]
    exact ⟨rfl, rfl, rfl, rfl, rfl, rfl, rfl, rfl⟩

end Sys2Proof.Machine
end

section
/-! SUPPORT. Proofs of the statements of 41_command_encoder.md: the policies of the commands (R151 to R162), the CMD
value read back (R163, R165, R166), and the unsupported opcodes (R164). -/

namespace Sys2Proof

open Machine

/-! ## The policies (R151 to R162) -/

/-- Settles O6: every clause names the commands whose policy differs from the default one (R151) in that field. -/
theorem commandPolicies : Obligations.CommandPolicies := by
  refine ⟨?_, ?_, ?_, ?_, ?_, ?_⟩
  all_goals
    intro c
    cases c <;> decide

/-! ## A CMD value read back (R163, R165, R166) -/

/-- Bits outside every field do not change what a typed view reads of an encoded record. -/
theorem FieldView.dec_enc_or {F : Type} {dec : Word → F} {enc : F → Word} {ranges : List (Nat × Nat)}
    {placed : F → List Placed} (v : FieldView dec enc ranges placed) (h : rangesOk 32 ranges = true) (f : F)
    {extra : Word} (he : extra &&& rangesMask ranges = 0) : dec (enc f ||| extra) = f := by
  have hmask : enc (dec (enc f ||| extra)) = enc f := calc
    enc (dec (enc f ||| extra)) = enc f &&& rangesMask ranges ||| extra &&& rangesMask ranges := by
      rw [v.enc_dec, BitVec.and_or_distrib_right]
    _ = enc (dec (enc f)) := by rw [he, v.enc_dec]; exact BitVec.or_zero
    _ = enc f := by rw [v.dec_enc h]
  rw [← v.dec_enc h (dec (enc f ||| extra)), hmask, v.dec_enc h]

theorem decCmd_cardValue {p : Params} (h : p.wf = true) (c : CardCmd) :
    decCmd p.layout (cardValue p c) = c.fields := by
  obtain ⟨hl, he⟩ := cmdFields_of_wf h
  exact (fieldView_cmd p.layout).dec_enc_or hl c.fields (beq_iff_eq.mp he)

theorem cmdResponseExpect_cardValue {p : Params} (h : p.wf = true) (c : CardCmd) :
    cmdResponseExpect p.layout (cardValue p c) = decide (c.fields.responseExpect = 1) := by
  rw [cmdResponseExpect, decCmd_cardValue h]

theorem commitOk_of_wf {p : Params} (h : p.wf = true) : p.commitOk = true := by
  simp only [Params.wf, Bool.and_eq_true] at h
  tauto

theorem eq_zero_of_not_one {b : BitVec 1} (h : (!decide (b = 1)) = true) : b = 0 :=
  b.eq_zero_or_eq_one.resolve_right (by simpa using h)

/-- The commit pulse expects neither a response nor data (R163). -/
theorem decCmd_commitValue {p : Params} (h : p.wf = true) :
    (decCmd p.layout (commitValue p)).responseExpect = 0 ∧ (decCmd p.layout (commitValue p)).dataExpected = 0 := by
  have hok := commitOk_of_wf h
  simp only [Params.commitOk, Bool.and_eq_true] at hok
  obtain ⟨⟨-, hresponse⟩, hdata⟩ := hok
  exact ⟨eq_zero_of_not_one hresponse, eq_zero_of_not_one hdata⟩

/-- Where step 5 begins: the pump, or step 6 without a data phase (42 R176). -/
theorem enterStep5_phase (s : State) : (enterStep5 s).ph.phase =
    if (decCmd s.cfg.layout s.wrk.cmdval).dataExpected = 1 then .pumpStart else .ackRead := by
  simp only [enterStep5, cmdDataExpected, decide_eq_true_eq]
  split <;> rfl

/-- Where step 4 begins: the poll of `command_done`, or step 5 without a response (42 R175). -/
theorem enterStep4_phase (s : State) : (enterStep4 s).ph.phase =
    if (decCmd s.cfg.layout s.wrk.cmdval).responseExpect = 1 then .wait .done .start
    else (enterStep5 s).ph.phase := by
  simp only [enterStep4, cmdResponseExpect, decide_eq_true_eq]
  split <;> rfl

theorem cmdStart_false_of_field {l : Layout} {v : Word} (h : (decCmd l v).start = 0) : cmdStart l v = false := by
  rw [cmdStart, h]; rfl

/-- The poll of step 3 that reads `start` as 0 leads to step 4. -/
theorem step_acceptedPoll {s : State} (hs : s.running) (hp : s.ph.phase = .wait .accepted .poll)
    (h : cmdStart s.cfg.layout (readVal .cmd s) = false) :
    step s = .next (enterStep4 (noteSnap .cmd (readVal .cmd s) (readReg .cmd s))) :=
  (step_waitStep hs hp).trans (congrArg _ (waitPoll_met (congrArg (!·) h)))

/-- The poll of step 4 that reads `command_done` as 1 leads to step 5. -/
theorem step_donePoll {s : State} (hs : s.running) (hp : s.ph.phase = .wait .done .poll)
    (h : flagCommandDone s.cfg.layout (readVal .rintsts s) = true) :
    step s = .next (enterStep5 (noteSnap .rintsts (readVal .rintsts s) (readReg .rintsts s))) :=
  (step_waitStep hs hp).trans (congrArg _ (waitPoll_met h))

/-- Settles O5: the value by `decCmd_cardValue`, and where each met poll leads by `enterStep4_phase` and
`enterStep5_phase`. -/
theorem encodedCommandsReadBack : Obligations.EncodedCommandsReadBack := by
  refine ⟨fun p c h => decCmd_cardValue h c, fun p h => decCmd_commitValue h, fun s hs hp h => ?accepted,
    fun s hs hp h => ?done⟩
  case accepted =>
    exact ⟨_, step_acceptedPoll hs hp (cmdStart_false_of_field h),
      (enterStep4_phase _).trans (by rw [enterStep5_phase]; rfl)⟩
  case done => exact ⟨_, step_donePoll hs hp (decide_eq_true h), enterStep5_phase _⟩

/-! ## The unsupported opcodes (R164) -/

theorem ite_some_eq_none {α : Type} {c : Prop} [Decidable c] {a : α} {e : Option α} :
    (if c then some a else e) = none ↔ ¬ c ∧ e = none := by
  by_cases h : c <;> simp [h]

/-- The supported opcodes are the eleven of 30 R115. -/
theorem ofOpcode_eq_none_iff (n : Nat) :
    CardCmd.ofOpcode n = none ↔ n ∉ [0, 2, 3, 7, 8, 9, 17, 24, 41, 51, 55] := by
  simp only [CardCmd.ofOpcode, ite_some_eq_none, and_true, List.mem_cons, List.not_mem_nil, or_false, not_or]

theorem encodeCmd_of_some {p : Params} {n : Fin 57} {c : CardCmd} (h : CardCmd.ofOpcode n.val = some c) :
    encodeCmd p (.card n) = .ok (cardValue p c) := by
  rw [encodeCmd, h]

theorem encodeCmd_of_none {p : Params} {n : Fin 57} (h : CardCmd.ofOpcode n.val = none) :
    encodeCmd p (.card n) = .error (.unimplementedOperation n.val) := by
  rw [encodeCmd, h]

theorem encodeCmd_error_iff (p : Params) (n : Fin 57) :
    encodeCmd p (.card n) = .error (.unimplementedOperation n.val) ↔ CardCmd.ofOpcode n.val = none := by
  refine ⟨fun h => ?_, encodeCmd_of_none⟩
  cases hc : CardCmd.ofOpcode n.val with
  | none => rfl
  | some c => rw [encodeCmd_of_some hc] at h; cases h

/-- A field is determined by the bits of its mask. -/
theorem getField_congr {lo w : Nat} (hw : lo + w ≤ 32) {x y : Word}
    (h : x &&& fieldMask lo w = y &&& fieldMask lo w) : getField x lo w = getField y lo w := by
  rw [← getField_putField hw (getField x lo w), putField_getField, h, ← putField_getField, getField_putField hw]

/-- Words that agree under a mask agree under every part of it. -/
theorem and_congr_of_subMask {x y m k : Word} (h : x &&& m = y &&& m) (hk : m &&& k = k) : x &&& k = y &&& k := by
  rw [← hk, ← BitVec.and_assoc, h, BitVec.and_assoc]

/-- A CMD value meant as a card command that is in a row of the table has a supported opcode. -/
theorem supported_of_decode {w0 w1 w2 w3 : Word} {i : Instr} (hcard : w0 &&& 0x80200000 = 0x80000000)
    (h : decode ⟨.cmdreg, w0, w1, w2, w3⟩ = .ok i) : CardCmd.ofOpcode (w0.extractLsb' 0 6).toNat ≠ none := by
  obtain ⟨hformat, (hrow : w0 &&& cmdTableMask = (encode i).w0 &&& cmdTableMask), -⟩ := presents_of_decode h
  have hop : w0.extractLsb' 0 6 = (encode i).w0.extractLsb' 0 6 :=
    getField_congr (by decide) (and_congr_of_subMask hrow (by decide))
  have hflags : (encode i).w0 &&& 0x80200000 = 0x80000000 :=
    (and_congr_of_subMask hrow (by decide)).symm.trans hcard
  rw [hop]
  cases i with
  | goIdleState | allSendCid | sendRelativeAddr | selectCard | sendIfCond | sendCsd | readSingleBlock
  | writeSingleBlock | sdSendOpCond | sendScr | appCmd => dsimp only [encode]; decide
  | commitClk => exact absurd hflags (by decide)
  | init | readBlock | writeBlock => cases hformat

/-- One row of the decoder rejects nothing by itself. -/
theorem error_of_row {c : Prop} [Decidable c] {i : Instr} {r : Reject} {e : Except Reject Instr}
    (h : (if c then .ok i else e) = .error r) : e = .error r := by
  split at h
  · cases h
  · exact h

theorem rejectCmd_of_decode {w0 w1 w2 w3 : Word} {r : Reject}
    (h : decode ⟨.cmdreg, w0, w1, w2, w3⟩ = .error r) : r = rejectCmd w0 := by
  simp only [decode, decodeCmdreg] at h
  iterate 12 replace h := error_of_row h
  exact (Except.error.inj h).symm

theorem reserved_of_decode {w0 w1 w2 w3 : Word} {r : Reject}
    (h : decode ⟨.clientop, w0, w1, w2, w3⟩ = .error r) : r = .reservedOperation := by
  simp only [decode, decodeClientop] at h
  iterate 3 replace h := error_of_row h
  exact (Except.error.inj h).symm

/-- The rejection that names an opcode names one of the word that is not supported. -/
theorem rejectCmd_unsupported_iff {w0 : Word} {n : Fin 57} : rejectCmd w0 = .unsupported n ↔
    (w0.extractLsb' 0 6).toNat = n.val ∧ looksLikeCard w0 = true ∧ CardCmd.ofOpcode n.val = none := by
  constructor
  · intro h
    unfold rejectCmd at h
    split at h
    · split at h
      · next hc =>
        cases h
        rw [Bool.and_eq_true, Option.isNone_iff_eq_none] at hc
        exact ⟨rfl, hc⟩
      · cases h
    · cases h
  · rintro ⟨hn, hcard, hnone⟩
    have hlt : (w0.extractLsb' 0 6).toNat < 57 := hn ▸ n.isLt
    rw [rejectCmd, dif_pos hlt, if_pos (by rw [hcard, hn, hnone]; rfl)]
    exact congrArg _ (Fin.ext hn)

theorem decode_unsupported {w0 : Word} (w1 w2 w3 : Word) {n : Fin 57} (hcard : w0 &&& 0x80200000 = 0x80000000)
    (hn : (w0.extractLsb' 0 6).toNat = n.val) (hnone : CardCmd.ofOpcode n.val = none) :
    decode ⟨.cmdreg, w0, w1, w2, w3⟩ = .error (.unsupported n) := by
  cases h : decode ⟨.cmdreg, w0, w1, w2, w3⟩ with
  | ok i => exact absurd (hn ▸ hnone) (supported_of_decode hcard h)
  | error r =>
    rw [rejectCmd_of_decode h, rejectCmd_unsupported_iff.mpr ⟨hn, beq_iff_eq.mpr hcard, hnone⟩]

/-- The decoder calls no supported opcode unsupported. -/
theorem ofOpcode_of_decode {o : OpWords} {n : Fin 57} (h : decode o = .error (.unsupported n)) :
    CardCmd.ofOpcode n.val = none := by
  obtain ⟨_ | _, w0, w1, w2, w3⟩ := o
  · obtain ⟨-, -, hnone⟩ := rejectCmd_unsupported_iff.mp (rejectCmd_of_decode h).symm
    exact hnone
  · cases reserved_of_decode h

/-- A block in service rejects what is presented to it when it is idle and is no instruction. -/
theorem step_rejects {s : State} {o : OpWords} {r : Reject} (h : s.inService) (hi : s.isIdle = true)
    (hp : s.port = some o) (hd : decode o = .error r) : step s = rejectRequest r (takeRequest s) := by
  obtain ⟨hreset, hwf, hfault⟩ := h
  simp [step, hreset, hwf, hfault, hi, hp, hd]

theorem rejectRequest_unsupported {n : Fin 57} (s : State) (h : CardCmd.ofOpcode n.val = none) :
    rejectRequest (.unsupported n) s = .next (raise (.unimplementedOperation n.val) s) := by
  simp only [rejectRequest, encodeCmd_of_none h]

/-- Settles O7: the encoder, the decoder and the block agree on `CardCmd.ofOpcode n = none`. -/
theorem unsupportedOpcodesFault : Obligations.UnsupportedOpcodesFault := by
  refine ⟨fun p n => (encodeCmd_error_iff p n).trans (ofOpcode_eq_none_iff n), fun p n hn => ?encodes,
    fun w0 w1 w2 w3 n hcard hop hn => decode_unsupported w1 w2 w3 hcard hop ((ofOpcode_eq_none_iff n).mpr hn),
    fun s o n hs hi hp hd => ?faults⟩
  case encodes =>
    have hsome : CardCmd.ofOpcode n.val ≠ none := fun hnone => (ofOpcode_eq_none_iff n).mp hnone hn
    obtain ⟨c, hc⟩ := Option.ne_none_iff_exists'.mp hsome
    exact ⟨_, encodeCmd_of_some hc⟩
  case faults =>
    exact (step_rejects hs hi hp hd).trans (rejectRequest_unsupported (takeRequest s) (ofOpcode_of_decode hd))

end Sys2Proof
end

section
/-! SUPPORT. The parts of an exchange against a prompt controller as runs of several steps, and the whole exchange of
GO_IDLE_STATE (41_command_encoder.md R152, 42_transfer_engine.md R183, R185). -/

namespace Sys2Proof.Machine

variable {s t u : State}

/-! ## Runs inside an exchange -/

theorem run_add {j k : Nat} (h : Host.Core.run core j s = .next t) :
    Host.Core.run core (j + k) s = Host.Core.run core k t := by
  induction j generalizing s with
  | zero => cases h; rw [Nat.zero_add]
  | succ j ih =>
    cases hs : step s with
    | next u => rw [run_succ hs] at h; rw [Nat.add_right_comm, run_succ hs]; exact ih h
    | fault r => simp [Host.Core.run, core, hs] at h
    | refused r => simp [Host.Core.run, core, hs] at h

/-- What surrounds an exchange, and its steps leave alone. -/
def State.surroundings (s : State) :
    SessionRegs × Memory × Option Completion × Option OpWords × Option Fault × Bool :=
  (s.ses, s.mem, s.completion, s.port, s.fault, s.resetLine)

theorem surroundings_eq_iff : t.surroundings = s.surroundings ↔ t.ses = s.ses ∧ t.mem = s.mem ∧
    t.completion = s.completion ∧ t.port = s.port ∧ t.fault = s.fault ∧ t.resetLine = s.resetLine := by
  simp [State.surroundings]

/-- What an exchange runs by: the parameters, its operands, and what it runs for. -/
def State.terms (s : State) : Params × Word × Word × Ctx × Bool :=
  (s.cfg, s.wrk.cmdval, s.wrk.arg, s.ph.ctx, s.ph.busy)

theorem terms_eq_iff : t.terms = s.terms ↔ t.cfg = s.cfg ∧ t.wrk.cmdval = s.wrk.cmdval ∧ t.wrk.arg = s.wrk.arg ∧
    t.ph.ctx = s.ph.ctx ∧ t.ph.busy = s.ph.busy := by
  simp [State.terms]

/-- `n` steps of an exchange lead from `s` to `t` with the transactions `xs`, newest first, the environment moving once
for each. -/
structure Runs (n : Nat) (xs : List Txn) (s t : State) : Prop where
  run_eq : Host.Core.run core n s = .next t
  trace_eq : t.trace = xs ++ s.trace
  script_eq : t.env.script = s.env.script.drop xs.length
  terms_eq : t.terms = s.terms
  surroundings_eq : t.surroundings = s.surroundings

/-- One step of an operation in progress that makes one transaction. -/
theorem Runs.single {x : Txn} (hs : s.running) (ha : advance s = .next t) (htrace : t.trace = x :: s.trace := by rfl)
    (hscript : t.env.script = s.env.script.tail := by rfl) (hterms : t.terms = s.terms := by rfl)
    (houter : t.surroundings = s.surroundings := by rfl) : Runs 1 [x] s t :=
  ⟨by rw [run_succ ((step_running hs).trans ha), run_zero], htrace, hscript.trans List.drop_one.symm, hterms,
    houter⟩

section
variable {n k : Nat} {xs ys : List Txn} {ms ms' : List EnvMove} (h : Runs n xs s t)
include h

theorem Runs.trans (h' : Runs k ys t u) : Runs (n + k) (ys ++ xs) s u where
  run_eq := (run_add h.run_eq).trans h'.run_eq
  trace_eq := by rw [h'.trace_eq, h.trace_eq, List.append_assoc]
  script_eq := by rw [h'.script_eq, h.script_eq, List.drop_drop, List.length_append, Nat.add_comm]
  terms_eq := h'.terms_eq.trans h.terms_eq
  surroundings_eq := h'.surroundings_eq.trans h.surroundings_eq

theorem Runs.cfg_eq : t.cfg = s.cfg := by
  obtain ⟨hcfg, -⟩ := terms_eq_iff.mp h.terms_eq
  exact hcfg

/-- The operation is still in progress at the end of a run that leads to another of its phases. -/
theorem Runs.running (hs : s.running) (hp : t.ph.phase ≠ .idle) : t.running := by
  obtain ⟨-, -, -, hport, hfault, hreset⟩ := surroundings_eq_iff.mp h.surroundings_eq
  obtain ⟨⟨hline, hwf, hnone⟩, hfree, -⟩ := hs
  exact ⟨⟨hreset.trans hline, h.cfg_eq ▸ hwf, hfault.trans hnone⟩, hport.trans hfree, hp⟩

/-- The moves that the run leaves to be made. -/
theorem Runs.script (hs : s.env.script = ms) (hd : ms.drop xs.length = ms' := by rfl) : t.env.script = ms' := by
  rw [h.script_eq, hs, hd]

end

theorem nextMove_of_script {m : EnvMove} {ms : List EnvMove} (h : s.env.script = m :: ms) : nextMove s = m := by
  rw [nextMove, h]

/-! ## Steps 1 to 3 (42 R171 to R174) -/

/-- A wait of an exchange whose first poll meets its condition leads to the phase `p` in two steps. -/
theorem runs_waitMet {w : WaitFor} {k : Fin 9} {p : Phase} (hs : s.running) (hp : s.ph.phase = .wait w .start)
    (hmet : w.holds s.cfg.layout (readVal w.reg (waitBegin w s)) = true)
    (hnext : ∀ u : State, u.terms = s.terms → waitMet w u = u.gotoStep k p) :
    ∃ c n t, Runs 2 [rdTxn s.cfg w.reg c, .now n] s t ∧ t.ph.phase = p := by
  have hclock : Runs 1 [.now (clockVal s)] s (waitBegin w s) := .single hs (by rw [advance, hp]; rfl)
  have hpoll := (waitPoll_met (s := waitBegin w s) hmet).trans (hnext _ rfl)
  exact ⟨_, _, _, hclock.trans (.single (hclock.running hs nofun) (congrArg _ hpoll)), rfl⟩

/-- The poll after `now()` reads `start` as 0 when the move before it has it 0 (20 R68). -/
theorem cmdStart_polled {m m' : EnvMove} {ms : List EnvMove} (w : WaitFor) (h : s.env.script = m :: m' :: ms)
    (h0 : cmdStart s.cfg.layout m'.cmd = false) :
    cmdStart s.cfg.layout (readVal .cmd (waitBegin w s)) = false := by
  have hmove : nextMove (waitBegin w s) = m' := nextMove_of_script (congrArg List.tail h)
  refine (envStep_cmdStart (s := waitBegin w s)).trans ?_
  rw [hmove]
  exact (congrArg (_ && ·) h0).trans (Bool.and_false _)

/-- Step 2 writes CMDARG, then CMD (42 R173). -/
theorem runs_submit (hs : s.running) (hp : s.ph.phase = .writeArg) :
    ∃ t, Runs 2 [wrTxn s.cfg .cmd s.wrk.cmdval, wrTxn s.cfg .cmdarg s.wrk.arg] s t ∧
      t.ph.phase = .wait .accepted .start := by
  have harg : Runs 1 [wrTxn s.cfg .cmdarg s.wrk.arg] s (submitArg s) := .single hs (by rw [advance, hp])
  exact ⟨submitCmd (submitArg s), harg.trans (.single (harg.running hs nofun) rfl), rfl⟩

/-- Steps 1 to 3 of a command without a data phase, against a controller whose `start` reads 0 at both waits; `hnext`
says where step 4 begins. -/
theorem runs_untilAccepted {m0 m1 m2 m3 m4 m5 : EnvMove} {ms : List EnvMove} {k : Fin 9} {p : Phase}
    (hs : s.running) (hp : s.ph.phase = .wait .ready .start)
    (hdata : cmdDataExpected s.cfg.layout s.wrk.cmdval = false)
    (hscript : s.env.script = m0 :: m1 :: m2 :: m3 :: m4 :: m5 :: ms)
    (h1 : cmdStart s.cfg.layout m1.cmd = false) (h5 : cmdStart s.cfg.layout m5.cmd = false)
    (hnext : ∀ u : State, u.terms = s.terms → enterStep4 u = u.gotoStep k p) :
    ∃ c0 c1 n0 n1 t, Runs 6 [rdTxn s.cfg .cmd c1, .now n1, wrTxn s.cfg .cmd s.wrk.cmdval,
      wrTxn s.cfg .cmdarg s.wrk.arg, rdTxn s.cfg .cmd c0, .now n0] s t ∧ t.ph.phase = p := by
  have hsubmit : ∀ u : State, u.terms = s.terms → waitMet .ready u = u.gotoStep 2 .writeArg := fun u hu => by
    obtain ⟨hcfg, hcmd, -⟩ := terms_eq_iff.mp hu
    simp [waitMet, hcfg, hcmd, hdata]
  obtain ⟨c0, n0, t, ht, hpt⟩ := runs_waitMet hs hp (congrArg (!·) (cmdStart_polled .ready hscript h1)) hsubmit
  obtain ⟨u, hu, hpu⟩ := runs_submit (ht.running hs (by simp [hpt])) hpt
  obtain ⟨hcfg, hcmd, harg, -⟩ := terms_eq_iff.mp ht.terms_eq
  rw [hcfg, hcmd, harg] at hu
  have htu := ht.trans hu
  have hstart := cmdStart_polled .accepted (htu.script hscript) (by rw [htu.cfg_eq]; exact h5)
  obtain ⟨c1, n1, v, hv, hpv⟩ := runs_waitMet (htu.running hs (by simp [hpu])) hpu (congrArg (!·) hstart)
    (fun u hu => hnext u (hu.trans htu.terms_eq))
  rw [htu.cfg_eq] at hv
  exact ⟨c0, c1, n0, n1, v, htu.trans hv, hpv⟩

/-! ## Steps 6 to 8 (42 R179 to R181) -/

/-- Step 6 writes back the value it reads, and keeps it. -/
theorem runs_acknowledge (hs : s.running) (hp : s.ph.phase = .ackRead) :
    ∃ v t, Runs 2 [wrTxn s.cfg .rintsts v, rdTxn s.cfg .rintsts v] s t ∧ t.ph.phase = .readResp0 ∧
      t.wrk.snap = v := by
  have hread : Runs 1 [rdTxn s.cfg .rintsts (readVal .rintsts s)] s (ackRead s) :=
    .single hs (by rw [advance, hp])
  exact ⟨_, ackWrite (ackRead s), hread.trans (.single (hread.running hs nofun) rfl), rfl, rfl⟩

section
variable {m : EnvMove} {ms : List EnvMove} (hs : s.running) (h : s.env.script = m :: ms)
include hs h

theorem runs_respond0 (hp : s.ph.phase = .readResp0) : ∃ t, Runs 1 [rdTxn s.cfg .resp0 m.resp0] s t ∧
    t.ph.phase = .readResp1 ∧ t.wrk = { s.wrk with resp0 := m.resp0 } := by
  rw [← nextMove_of_script h]
  exact ⟨respond0 s, .single hs (by rw [advance, hp]), rfl, rfl⟩

theorem runs_respond1 (hp : s.ph.phase = .readResp1) : ∃ t, Runs 1 [rdTxn s.cfg .resp1 m.resp1] s t ∧
    t.ph.phase = .readResp2 ∧ t.wrk = { s.wrk with resp1 := m.resp1 } := by
  rw [← nextMove_of_script h]
  exact ⟨respond1 s, .single hs (by rw [advance, hp]), rfl, rfl⟩

theorem runs_respond2 (hp : s.ph.phase = .readResp2) : ∃ t, Runs 1 [rdTxn s.cfg .resp2 m.resp2] s t ∧
    t.ph.phase = .readResp3 ∧ t.wrk = { s.wrk with resp2 := m.resp2 } := by
  rw [← nextMove_of_script h]
  exact ⟨respond2 s, .single hs (by rw [advance, hp]), rfl, rfl⟩

theorem runs_respond3 (hp : s.ph.phase = .readResp3) : ∃ t, Runs 1 [rdTxn s.cfg .resp3 m.resp3] s t ∧
    t.ph.phase = .classify ∧ t.wrk = { s.wrk with resp3 := m.resp3 } := by
  rw [← nextMove_of_script h]
  exact ⟨respond3 s, .single hs (by rw [advance, hp]), rfl, rfl⟩

end

/-- Step 7 reads the words that the next four moves drive (20 R71). -/
theorem runs_respond {a b c d : EnvMove} {ms : List EnvMove} (hs : s.running) (hp : s.ph.phase = .readResp0)
    (h : s.env.script = a :: b :: c :: d :: ms) :
    ∃ t, Runs 4 [rdTxn s.cfg .resp3 d.resp3, rdTxn s.cfg .resp2 c.resp2, rdTxn s.cfg .resp1 b.resp1,
      rdTxn s.cfg .resp0 a.resp0] s t ∧ t.ph.phase = .classify ∧
    t.wrk = { s.wrk with resp0 := a.resp0, resp1 := b.resp1, resp2 := c.resp2, resp3 := d.resp3 } := by
  obtain ⟨t0, h0, hp0, hwrk0⟩ := runs_respond0 hs h hp
  obtain ⟨t1, h1, hp1, hwrk1⟩ := runs_respond1 (h0.running hs (by simp [hp0])) (h0.script h) hp0
  rw [h0.cfg_eq] at h1
  have h01 := h0.trans h1
  obtain ⟨t2, h2, hp2, hwrk2⟩ := runs_respond2 (h01.running hs (by simp [hp1])) (h01.script h) hp1
  rw [h01.cfg_eq] at h2
  have h012 := h01.trans h2
  obtain ⟨t3, h3, hp3, hwrk3⟩ := runs_respond3 (h012.running hs (by simp [hp2])) (h012.script h) hp2
  rw [h012.cfg_eq] at h3
  exact ⟨t3, h012.trans h3, hp3, by rw [hwrk3, hwrk2, hwrk1, hwrk0]⟩

/-- The outcome of an exchange from the value step 6 read and the words step 7 read (42 R181). -/
def outcomeOf (l : Layout) (v r0 r1 r2 r3 : Word) : XOutcome :=
  if hasError l v then .failed (v.extractLsb' 0 16) else .ok r0 r1 r2 r3

theorem classifyOutcome_eq (s : State) : classifyOutcome s =
    outcomeOf s.cfg.layout s.wrk.snap s.wrk.resp0 s.wrk.resp1 s.wrk.resp2 s.wrk.resp3 := by
  rw [classifyOutcome, outcomeOf, BitVec.setWidth_eq_extractLsb' (by decide)]

/-- Steps 6 and 7 lead to the classification of the value that step 6 read. -/
theorem runs_untilClassify {m m' a b c d : EnvMove} {ms : List EnvMove} (hs : s.running)
    (hp : s.ph.phase = .ackRead) (h : s.env.script = m :: m' :: a :: b :: c :: d :: ms) :
    ∃ v t, Runs 6 [rdTxn s.cfg .resp3 d.resp3, rdTxn s.cfg .resp2 c.resp2, rdTxn s.cfg .resp1 b.resp1,
      rdTxn s.cfg .resp0 a.resp0, wrTxn s.cfg .rintsts v, rdTxn s.cfg .rintsts v] s t ∧ t.ph.phase = .classify ∧
    classifyOutcome t = outcomeOf s.cfg.layout v a.resp0 b.resp1 c.resp2 d.resp3 := by
  obtain ⟨v, t, ht, hpt, hsnap⟩ := runs_acknowledge hs hp
  obtain ⟨u, hu, hpu, hwrk⟩ := runs_respond (ht.running hs (by simp [hpt])) hpt (ht.script h)
  have hout : classifyOutcome u = outcomeOf s.cfg.layout v a.resp0 b.resp1 c.resp2 d.resp3 := by
    rw [classifyOutcome_eq, hu.cfg_eq, ht.cfg_eq, hwrk, hsnap]
  rw [ht.cfg_eq] at hu
  exact ⟨v, u, ht.trans hu, hpu, hout⟩

/-- Step 8 makes no transaction. -/
theorem run_classify (hs : s.running) (hp : s.ph.phase = .classify) :
    Host.Core.run core 1 s = .next (finish (.xchg (classifyOutcome s)) s) := by
  rw [run_succ (t := classify s) (by rw [step_running hs, advance, hp]), run_zero, classify]

/-! ## GO_IDLE_STATE (41 R152, 42 R183, R185 a) -/

/-- GO_IDLE_STATE expects neither a response nor data, so that step 3 leads to step 6. -/
theorem enterStep4_goIdleState (hw : s.cfg.wf = true) (hc : s.wrk.cmdval = cardValue s.cfg .goIdleState) :
    enterStep4 s = s.gotoStep 6 .ackRead := by
  have hresponse : cmdResponseExpect s.cfg.layout s.wrk.cmdval = false := by
    rw [hc, cmdResponseExpect_cardValue hw]; rfl
  have hdata : cmdDataExpected s.cfg.layout s.wrk.cmdval = false := by
    rw [hc, cmdDataExpected_cardValue hw]; rfl
  simp [enterStep4, enterStep5, hresponse, hdata]

/-- A row by itself leaves the block idle when its exchange has returned. -/
theorem finish_isIdle (r : OpResult) (hc : s.ph.ctx.alone = true) (hb : s.ph.busy = false) :
    (finish r s).isIdle = true := by
  rw [isIdle_iff, finish_ph_alone hc]
  exact ⟨rfl, hb⟩

/-- The twelve transactions of GO_IDLE_STATE, ten of them on registers, none of them a poll of RINTSTS. -/
theorem runs_goIdleState {m0 m1 m2 m3 m4 m5 m6 m7 m8 m9 m10 m11 : EnvMove} {ms : List EnvMove} (hs : s.running)
    (hp : s.ph.phase = .wait .ready .start) (hc : s.wrk.cmdval = cardValue s.cfg .goIdleState)
    (hscript : s.env.script = m0 :: m1 :: m2 :: m3 :: m4 :: m5 :: m6 :: m7 :: m8 :: m9 :: m10 :: m11 :: ms)
    (h1 : cmdStart s.cfg.layout m1.cmd = false) (h5 : cmdStart s.cfg.layout m5.cmd = false) :
    ∃ c0 c1 v n0 n1 t, Runs 12 [rdTxn s.cfg .resp3 m11.resp3, rdTxn s.cfg .resp2 m10.resp2,
      rdTxn s.cfg .resp1 m9.resp1, rdTxn s.cfg .resp0 m8.resp0, wrTxn s.cfg .rintsts v, rdTxn s.cfg .rintsts v,
      rdTxn s.cfg .cmd c1, .now n1, wrTxn s.cfg .cmd s.wrk.cmdval, wrTxn s.cfg .cmdarg s.wrk.arg,
      rdTxn s.cfg .cmd c0, .now n0] s t ∧ t.ph.phase = .classify ∧
    classifyOutcome t = outcomeOf s.cfg.layout v m8.resp0 m9.resp1 m10.resp2 m11.resp3 := by
  have ⟨⟨_, hw, _⟩, _⟩ := hs
  have hdata : cmdDataExpected s.cfg.layout s.wrk.cmdval = false := by
    rw [hc, cmdDataExpected_cardValue hw]; rfl
  have hsilent : ∀ u : State, u.terms = s.terms → enterStep4 u = u.gotoStep 6 .ackRead := fun u hu => by
    obtain ⟨hcfg, hcmd, -⟩ := terms_eq_iff.mp hu
    exact enterStep4_goIdleState (hcfg ▸ hw) (by rw [hcmd, hcfg, hc])
  obtain ⟨c0, c1, n0, n1, t, ht, hpt⟩ := runs_untilAccepted hs hp hdata hscript h1 h5 hsilent
  obtain ⟨v, u, hu, hpu, hout⟩ := runs_untilClassify (ht.running hs (by simp [hpt])) hpt (ht.script hscript)
  rw [ht.cfg_eq] at hu hout
  exact ⟨c0, c1, v, n0, n1, u, ht.trans hu, hpu, hout⟩

/-- Settles O13: the run of its transactions (`runs_goIdleState`) and the classification, which leave the surroundings
alone. -/
theorem goIdleExchangeRuns : Obligations.GoIdleExchangeRuns := by
  intro s m0 m1 m2 m3 m4 m5 m6 m7 m8 m9 m10 m11 rest hs hport hidle hscript h1 h5
  have hstarted : (startXchg .goIdleState 0 .none .bare s).running := ⟨hs, hport, nofun⟩
  obtain ⟨c0, c1, v, n0, n1, u, hu, hpu, hout⟩ := runs_goIdleState hstarted rfl rfl hscript h1 h5
  obtain ⟨-, -, -, hctx, hbusy⟩ := terms_eq_iff.mp hu.terms_eq
  obtain ⟨hses, hmem, hcompletion, -, hfault, -⟩ := surroundings_eq_iff.mp hu.surroundings_eq
  obtain ⟨-, -, hnone⟩ := hs
  have hclassify := run_classify (hu.running hstarted (by simp [hpu])) hpu
  have hend : (finish (.xchg (classifyOutcome u)) u).isIdle = true :=
    finish_isIdle _ (congrArg Ctx.alone hctx) (hbusy.trans (isIdle_iff.mp hidle).2)
  exact ⟨_, _, c0, c1, v, n0, n1, accept_idle hidle _, (run_add hu.run_eq).trans hclassify,
    congrArg (fun o => some (OpResult.xchg o)) hout, hu.trace_eq, hend, rfl, hses, hmem, hcompletion,
    hfault.trans hnone⟩

end Sys2Proof.Machine
end

section
/-! SUPPORT. Proofs of the statement that the pumps stay inside their buffers (42_transfer_engine.md R177, R178,
70_reset_and_hazards.md R318), over every step. -/

namespace Sys2Proof.Machine

variable {s t u : State}

/-! ## Outside the pumps -/

/-- The places of a pump at which the cursor is bounded: all but its first step, which sets it. -/
def Phase.pumping : Phase → Bool
  | .pumpSnap | .pumpCount | .pumpMove | .pumpTime => true
  | _ => false

/-- No pump is moving words, and the descriptor has its buffer's length. -/
structure OutsidePump (t : State) : Prop where
  sized : t.wrk.td.sized t.cfg = true
  outside : t.ph.phase.pumping = false

/-- Outside a pump the invariant asks for the length of the descriptor only. -/
theorem OutsidePump.pumpInv (h : OutsidePump t) : PumpInv t := by
  obtain ⟨hsized, hout⟩ := h
  refine ⟨hsized, ?_, fun hp => ?_, fun hp => ?_⟩
  · rintro (hp | hp | hp) <;> rw [hp] at hout <;> cases hout
  · rw [hp] at hout; cases hout
  · rw [hp] at hout; cases hout

/-- The invariant reads the parameters, the descriptor, the cursor and the place only. -/
theorem PumpInv.congr (h : PumpInv u) (hcfg : t.cfg = u.cfg := by rfl) (htd : t.wrk.td = u.wrk.td := by rfl)
    (hcur : t.wrk.cursor = u.wrk.cursor := by rfl) (hph : t.ph.phase = u.ph.phase := by rfl) : PumpInv t := by
  obtain ⟨h1, h2, h3, h4⟩ := h
  exact ⟨by rwa [htd, hcfg], by rwa [hph, hcur, htd], by rwa [hph, hcur, htd], by rwa [hph, hcur, htd]⟩

theorem outsidePump_finish (h : s.wrk.td.sized s.cfg = true) (r : OpResult) : OutsidePump (finish r s) :=
  ⟨h, by rw [finish_ph]; cases s.ph.ctx.alone <;> rfl⟩

/-- Every exchange starts outside its pump with the descriptor it is given. -/
theorem outsidePump_startXchg {c : CardCmd} {a : Word} {d : Descriptor} {x : Ctx} (h : d.sized s.cfg = true) :
    OutsidePump (startXchg c a d x s) := ⟨h, rfl⟩

section
variable (h : s.wrk.td.sized s.cfg = true)
include h

theorem outsidePump_enterStep5 : OutsidePump (enterStep5 s) := by
  unfold enterStep5; split <;> exact ⟨h, rfl⟩

theorem outsidePump_enterStep4 : OutsidePump (enterStep4 s) := by
  unfold enterStep4; split
  · exact ⟨h, rfl⟩
  · exact outsidePump_enterStep5 h

theorem outsidePump_waitMet (w : WaitFor) : OutsidePump (waitMet w s) := by
  cases w with
  | ready => simp only [waitMet]; split <;> exact ⟨h, rfl⟩
  | notBusy => exact ⟨h, rfl⟩
  | accepted => exact outsidePump_enterStep4 h
  | done => exact outsidePump_enterStep5 h
  | pulse | reset f => exact outsidePump_finish h _

theorem outsidePump_waitExpired (w : WaitFor) : OutsidePump (waitExpired w s) := by
  cases w <;> exact outsidePump_finish h _

theorem outsidePump_waitStep (w : WaitFor) (stage : WaitStage) : OutsidePump (waitStep w stage s) := by
  cases stage with
  | start => exact ⟨h, rfl⟩
  | poll =>
    simp only [waitStep, waitPoll]; split
    · exact outsidePump_waitMet (s := noteSnap _ _ (readReg _ _)) h w
    · exact ⟨h, rfl⟩
  | check =>
    simp only [waitStep, waitCheck]; split
    · exact outsidePump_waitExpired (s := readClock s) h w
    · exact ⟨h, rfl⟩

/-! ## The client operations -/

theorem outsidePump_startData : OutsidePump (startData s) := by
  unfold startData; split
  case h_1 | h_4 => exact outsidePump_startXchg (beq_self_eq_true s.cfg.scrWords)
  case h_2 | h_3 | h_5 | h_6 => exact outsidePump_startXchg (beq_self_eq_true s.cfg.blockWords)
  all_goals exact ⟨h, rfl⟩

theorem outsidePump_ocrRetry : OutsidePump (ocrRetry s) := by
  unfold ocrRetry; split <;> exact ⟨h, rfl⟩

/-- What INIT and the block operations do when an exchange, pulse or reset request has returned: an exchange of INIT
has no descriptor, and a data-bearing one waits for PROGRAM_TXN. -/
theorem outsidePump_resume : OutsidePump (resume s) := by
  cases hc : s.ph.ctx with simp only [resume, hc]
  | bare | readRow | writeRow | scrRow | scr => exact ⟨h, rfl⟩
  | voltage => exact outsidePump_startXchg rfl
  | pulseOff | pulseOn | fifoReset =>
    simp only [afterPulseOff, afterPulseOn, afterFifoReset]
    split <;> exact ⟨h, rfl⟩
  | dmaReset =>
    unfold afterDmaReset; split
    · exact outsidePump_startXchg rfl
    · exact ⟨h, rfl⟩
  | goIdle | identify | address | csd | select =>
    simp only [afterGoIdle, afterIdentify, afterAddress, afterCsd, afterSelect]
    split
    · exact outsidePump_startXchg rfl
    · exact ⟨h, rfl⟩
    · exact ⟨h, rfl⟩
  | scrApp | readBlock | writeBlock =>
    simp only [afterScrApp, afterReadBlock, afterWriteBlock]
    split <;> exact ⟨h, rfl⟩
  | ocrApp =>
    unfold afterOcrApp; split
    · exact outsidePump_startXchg rfl
    · exact outsidePump_ocrRetry h
    · exact outsidePump_ocrRetry h
  | ocrCond =>
    unfold afterOcrCond; split
    · split
      · exact outsidePump_startXchg rfl
      · exact outsidePump_ocrRetry h
    · exact outsidePump_ocrRetry h
    · exact outsidePump_ocrRetry h

end

/-! ## The pumps (42 R177, R178) -/

/-- The exit test of a pump leaves the cursor where it is. -/
theorem pumpInv_pumpExit (hsized : s.wrk.td.sized s.cfg = true) (hle : s.wrk.cursor ≤ s.wrk.td.words) :
    PumpInv (pumpExit s) := by
  unfold pumpExit; split
  · exact OutsidePump.pumpInv ⟨hsized, rfl⟩
  · exact ⟨hsized, fun _ => hle, nofun, nofun⟩

/-- The STATUS read is next only with the cursor in its bounds: below the end for the write pump, at most there for the
read pump. -/
theorem pumpInv_pumpMore (hsized : s.wrk.td.sized s.cfg = true) (hle : s.wrk.cursor ≤ s.wrk.td.words) :
    PumpInv (pumpMore s) := by
  unfold pumpMore; split
  · exact pumpInv_pumpExit hsized hle
  · next dst n htd => exact ⟨hsized, fun _ => hle, nofun, fun _ hw => by simp [htd, Descriptor.isWrite] at hw⟩
  · next src n htd =>
    split
    · next hlt => exact ⟨hsized, fun _ => hle, nofun, fun _ _ => by simpa [htd, Descriptor.words] using hlt⟩
    · exact pumpInv_pumpExit hsized hle

theorem PumpInv.pumpBegin (h : PumpInv s) (hb : pumpBegin s = .next t) : PumpInv t := by
  unfold Machine.pumpBegin at hb
  split at hb <;> cases hb
  exact ⟨h.sized, fun _ => Nat.zero_le _, nofun, nofun⟩

theorem PumpInv.pumpSnapshot (h : PumpInv s) (hp : s.ph.phase = .pumpSnap) : PumpInv (pumpSnapshot s) := by
  have hle := h.cursor_le (.inl hp)
  unfold Machine.pumpSnapshot; split
  · exact pumpInv_pumpMore h.sized hle
  · exact pumpInv_pumpExit h.sized hle

/-- A word is moved next only below the end of the buffer: the read pump tests it, the write pump has tested it. -/
theorem PumpInv.pumpCounted (h : PumpInv s) (hp : s.ph.phase = .pumpCount) (count : Nat) :
    PumpInv (pumpCounted count s) := by
  have hle := h.cursor_le (.inr (.inl hp))
  unfold Machine.pumpCounted; split
  · exact pumpInv_pumpExit h.sized hle
  · next dst n htd =>
    split
    · split
      · exact h.congr
      · next hlt => exact ⟨h.sized, nofun, fun _ => by simpa [htd, Descriptor.words] using hlt, nofun⟩
    · exact pumpInv_pumpExit h.sized hle
  · next src n htd =>
    have hlt := h.fill_lt hp (by rw [htd]; rfl)
    split
    · exact ⟨h.sized, nofun, fun _ => hlt, nofun⟩
    · exact pumpInv_pumpExit h.sized hle

/-- The cursor passes the word moved, which lay inside the buffer. -/
theorem PumpInv.pumpMove (h : PumpInv s) (hp : s.ph.phase = .pumpMove) : PumpInv (pumpMove s) := by
  have hlt := h.move_lt hp
  unfold Machine.pumpMove; split
  · exact pumpInv_pumpExit h.sized hlt.le
  · exact pumpInv_pumpMore h.sized hlt
  · exact pumpInv_pumpMore h.sized hlt

theorem PumpInv.pumpDeadline (h : PumpInv s) (hp : s.ph.phase = .pumpTime) : PumpInv (pumpDeadline s) := by
  unfold Machine.pumpDeadline; split
  · exact (outsidePump_finish (s := readClock s) h.sized _).pumpInv
  · exact ⟨h.sized, fun _ => h.cursor_le (.inr (.inr hp)), nofun, nofun⟩

/-! ## Every step -/

/-- One step of an operation in progress. -/
theorem PumpInv.advance (h : PumpInv s) (ha : advance s = .next t) : PumpInv t := by
  unfold Machine.advance at ha
  cases hp : s.ph.phase with rw [hp] at ha
  | pumpStart => exact h.pumpBegin ha
  | idle => cases ha; exact h
  | wait w stage => cases ha; exact (outsidePump_waitStep h.sized w stage).pumpInv
  | pumpSnap => cases ha; exact h.pumpSnapshot hp
  | pumpCount => cases ha; exact PumpInv.pumpCounted (s := readReg .status s) h.congr hp _
  | pumpMove => cases ha; exact h.pumpMove hp
  | pumpTime => cases ha; exact h.pumpDeadline hp
  | classify => cases ha; exact (outsidePump_finish h.sized _).pumpInv
  | sleep => cases ha; exact (outsidePump_startXchg rfl).pumpInv
  | byteCount => cases ha; exact (outsidePump_startData (s := writeReg _ _ _) h.sized).pumpInv
  | returned => cases ha; exact (outsidePump_resume h.sized).pumpInv
  | writeArg | writeCmd | ackRead | ackWrite | readResp0 | readResp1 | readResp2 | readResp3 | pulseWrite
  | resetRead f | resetWrite f | clockOff | clockDivide | clockOn | busWidth | blockSize =>
    cases ha; exact OutsidePump.pumpInv ⟨h.sized, rfl⟩

/-- An accepted operation is outside the pumps: a row without a data phase starts an exchange with no descriptor, and
every other operation keeps the descriptor it finds. -/
theorem outsidePump_exec {i : Instr} (h : s.wrk.td.sized s.cfg = true) (he : exec i s = .next t) :
    OutsidePump t := by
  have hidle : s.ph.phase.pumping = false := by rw [exec_idle he]; rfl
  cases i with obtain ⟨-, rfl⟩ := accept_next he
  | goIdleState | allSendCid | sendRelativeAddr | selectCard | sendIfCond | sendCsd | sdSendOpCond
  | appCmd arg => exact outsidePump_startXchg rfl
  | commitClk | sendScr => exact ⟨h, rfl⟩
  | readSingleBlock index buf | writeSingleBlock index buf =>
    unfold beginBlockRow; split
    · exact ⟨h, hidle⟩
    · exact ⟨h, rfl⟩
  | init =>
    unfold beginInit; split
    · exact ⟨h, rfl⟩
    · exact ⟨h, hidle⟩
  | readBlock index buf | writeBlock index buf =>
    simp only [beginReadBlock, beginWriteBlock]; split
    · exact ⟨h, hidle⟩
    · split <;> exact ⟨h, rfl⟩

/-- Settles O49: outside a pump a step keeps the descriptor's length, and inside one it moves a word only below the end
of the buffer. -/
theorem pumpsStayInBuffer : Obligations.PumpsStayInBuffer := by
  intro s t h hstep
  obtain ⟨-, rfl⟩ | ⟨-, -, -, rfl⟩ | ⟨-, -, o, i, -, -, he⟩ | ⟨-, -, o, f, -, -, rfl⟩ | ⟨-, -, -, ha⟩ :=
    step_next_cases hstep
  · exact OutsidePump.pumpInv ⟨rfl, rfl⟩
  · exact h
  · exact (outsidePump_exec (s := takeRequest s) h.sized he).pumpInv
  · exact h.congr
  · exact h.advance ha

end Sys2Proof.Machine
end

section
/-! SUPPORT. Proofs of the statements of 42_transfer_engine.md about single places of an exchange: the bounded wait
(R171, R172, R182), step 2 (R173), steps 6 to 8 (R179 to R181), and the tests of the pumps (R177, R178). -/

namespace Sys2Proof.Machine

variable {s t u : State}

/-! ## An operation in progress -/

theorem running_fault (h : s.running) : s.fault = none := by
  obtain ⟨⟨-, -, hf⟩, -, -⟩ := h
  exact hf

theorem running_wf (h : s.running) : s.cfg.wf = true := by
  obtain ⟨⟨-, hw, -⟩, -, -⟩ := h
  exact hw

/-- The operation goes on at a state that differs in nothing the step looks at but the place. -/
theorem running_of_eq (h : s.running) (hp : t.ph.phase ≠ .idle := by nofun) (hcfg : t.cfg = s.cfg := by rfl)
    (hfault : t.fault = s.fault := by rfl) (hline : t.resetLine = s.resetLine := by rfl)
    (hport : t.port = s.port := by rfl) : t.running := by
  obtain ⟨⟨h1, h2, h3⟩, h4, -⟩ := h
  exact ⟨⟨hline.trans h1, hcfg ▸ h2, hfault.trans h3⟩, hport.trans h4, hp⟩

theorem step_advance (hs : s.running) (ha : advance s = .next t) : step s = .next t := (step_running hs).trans ha

/-! ## The bounded wait (R171) -/

/-- A one-bit condition `= 0` fails exactly when the bit is not 0. -/
theorem ne_zero_iff_not_one (b : BitVec 1) : b ≠ 0 ↔ (!decide (b = 1)) = false := by
  rcases b.eq_zero_or_eq_one with rfl | rfl <;> decide

/-- A met wait is over: the operation goes on elsewhere. -/
theorem waitMet_phase_ne (w : WaitFor) (stage : WaitStage) (s : State) : (waitMet w s).ph.phase ≠ .wait w stage := by
  cases w with
  | ready => simp only [waitMet]; split <;> nofun
  | notBusy => nofun
  | accepted =>
    rw [waitMet, enterStep4_phase, enterStep5_phase]
    split
    · nofun
    · split <;> nofun
  | done => rw [waitMet, enterStep5_phase]; split <;> nofun
  | pulse | reset f => simp only [waitMet, finish_ph]; split <;> nofun

theorem enterStep5_wrk : (enterStep5 s).wrk = s.wrk := by unfold enterStep5; split <;> rfl

theorem enterStep4_wrk : (enterStep4 s).wrk = s.wrk := by
  unfold enterStep4; split
  · rfl
  · exact enterStep5_wrk

theorem waitMet_wrk (w : WaitFor) : (waitMet w s).wrk = s.wrk := by
  cases w with
  | ready => simp only [waitMet]; split <;> rfl
  | accepted => exact enterStep4_wrk
  | done => exact enterStep5_wrk
  | notBusy | pulse | reset f => rfl

theorem waitPoll_unmet {w : WaitFor} (h : w.holds s.cfg.layout (readVal w.reg s) = false) :
    waitPoll w s = (noteSnap w.reg (readVal w.reg s) (readReg w.reg s)).goto (.wait w .check) :=
  if_neg (by simp [h])

/-- The deadline is tested next exactly when the condition does not hold. -/
theorem waitPoll_phase_iff (w : WaitFor) :
    w.holds s.cfg.layout (readVal w.reg s) = false ↔ (waitPoll w s).ph.phase = .wait w .check := by
  refine ⟨fun h => by rw [waitPoll_unmet h]; rfl, fun h => Bool.eq_false_iff.mpr fun hm => ?_⟩
  rw [waitPoll_met hm] at h
  exact waitMet_phase_ne w .check _ h

/-- A poll goes on to the deadline test or leaves the wait. -/
theorem waitPoll_phase (w : WaitFor) :
    (waitPoll w s).ph.phase = .wait w .check ∨ ∀ stage, (waitPoll w s).ph.phase ≠ .wait w stage := by
  cases h : w.holds s.cfg.layout (readVal w.reg s) with
  | false => exact .inl ((waitPoll_phase_iff w).mp h)
  | true => rw [waitPoll_met h]; exact .inr fun stage => waitMet_phase_ne w stage _

/-- A poll is one read of the condition's register. -/
theorem waitPoll_trace (w : WaitFor) :
    (waitPoll w s).trace = rdTxn s.cfg w.reg (readVal w.reg s) :: s.trace := by
  cases h : w.holds s.cfg.layout (readVal w.reg s) with
  | false => rw [waitPoll_unmet h]; rfl
  | true => rw [waitPoll_met h]; exact (agree_waitMet w).trace_eq

theorem waitPoll_t0 (w : WaitFor) : (waitPoll w s).wrk.t0 = s.wrk.t0 := by
  cases h : w.holds s.cfg.layout (readVal w.reg s) with
  | false => rw [waitPoll_unmet h]; rfl
  | true => rw [waitPoll_met h, waitMet_wrk]; rfl

/-- What an expired wait answers (R182, R184, 40 R138). -/
def WaitFor.expired : WaitFor → OpResult
  | .ready | .notBusy => .xchg (.timedOut 1)
  | .accepted => .xchg (.timedOut 3)
  | .done => .xchg (.timedOut 4)
  | .pulse | .reset _ => .timedOut

theorem waitExpired_eq (w : WaitFor) (s : State) : waitExpired w s = finish w.expired s := by cases w <;> rfl

theorem waitCheck_expired {w : WaitFor} (h : s.cfg.timeoutMs ≤ clockVal s - s.wrk.t0) :
    waitCheck w s = finish w.expired (readClock s) := (if_pos h).trans (waitExpired_eq w _)

theorem waitCheck_open {w : WaitFor} (h : clockVal s - s.wrk.t0 < s.cfg.timeoutMs) :
    waitCheck w s = (readClock s).goto (.wait w .poll) := if_neg (Nat.not_le.mpr h)

theorem finish_phase (r : OpResult) (s : State) :
    (finish r s).ph.phase = .idle ∨ (finish r s).ph.phase = .returned := by
  rw [finish_ph]; cases s.ph.ctx.alone
  · exact .inr rfl
  · exact .inl rfl

theorem waitCheck_phase_iff (w : WaitFor) :
    clockVal s - s.wrk.t0 < s.cfg.timeoutMs ↔ (waitCheck w s).ph.phase = .wait w .poll := by
  refine ⟨fun h => by rw [waitCheck_open h]; rfl, fun h => Nat.lt_of_not_le fun hle => ?_⟩
  rw [waitCheck_expired hle] at h
  rcases finish_phase w.expired (readClock s) with hp | hp <;> cases hp.symm.trans h

/-- The deadline test is one read of the clock. -/
theorem waitCheck_kept (w : WaitFor) :
    (waitCheck w s).trace = .now (clockVal s) :: s.trace ∧ (waitCheck w s).wrk.t0 = s.wrk.t0 := by
  unfold waitCheck; split
  · rw [waitExpired_eq]; exact ⟨rfl, rfl⟩
  · exact ⟨rfl, rfl⟩

/-- Settles O20: the three places of a wait, each one transaction; `waitPoll_phase_iff` and `waitCheck_phase_iff` say
where the last two lead. -/
theorem waitTestsConditionFirst : Obligations.WaitTestsConditionFirst := by
  refine ⟨fun s w hs hp => ⟨_, _, step_waitStep hs hp, rfl, rfl, rfl, rfl⟩, fun s w hs hp => ?poll,
    fun s w hs hp => ?check⟩
  case poll =>
    refine ⟨_, w.reg, readVal w.reg s, step_waitStep hs hp, waitPoll_trace w, waitPoll_t0 w, ?_, ?_, ?_, ?_, ?_,
      waitPoll_phase w⟩
    · rintro (rfl | rfl | rfl)
      · exact ⟨rfl, (ne_zero_iff_not_one _).trans (waitPoll_phase_iff .ready)⟩
      · exact ⟨rfl, (ne_zero_iff_not_one _).trans (waitPoll_phase_iff .accepted)⟩
      · exact ⟨rfl, (ne_zero_iff_not_one _).trans (waitPoll_phase_iff .pulse)⟩
    · rintro rfl; exact ⟨rfl, (ne_zero_iff_not_one _).trans (waitPoll_phase_iff .notBusy)⟩
    · rintro rfl; exact ⟨rfl, decide_eq_false_iff_not.symm.trans (waitPoll_phase_iff .done)⟩
    · rintro rfl; exact ⟨rfl, (ne_zero_iff_not_one _).trans (waitPoll_phase_iff (.reset .fifo))⟩
    · rintro rfl; exact ⟨rfl, (ne_zero_iff_not_one _).trans (waitPoll_phase_iff (.reset .dma))⟩
  case check =>
    obtain ⟨htrace, ht0⟩ := waitCheck_kept (s := s) w
    exact ⟨_, clockVal s, step_waitStep hs hp, htrace, ht0, waitCheck_phase_iff w⟩

/-! ## Expired waits (R182) -/

theorem pumpDeadline_expired (h : s.cfg.timeoutMs ≤ clockVal s - s.wrk.t0) :
    pumpDeadline s = finish (.xchg (.timedOut 5)) (readClock s) := if_pos h

theorem pumpDeadline_open (h : clockVal s - s.wrk.t0 < s.cfg.timeoutMs) :
    pumpDeadline s = (readClock s).goto .pumpSnap := if_neg (Nat.not_le.mpr h)

theorem step_pumpDeadline (hs : s.running) (hp : s.ph.phase = .pumpTime) : step s = .next (pumpDeadline s) :=
  step_advance hs (by rw [advance, hp])

/-- Settles O21: past the deadline the step reads the clock and returns `WaitFor.expired`, or the pump's TimedOut. -/
theorem expiredWaitTimesOut : Obligations.ExpiredWaitTimesOut := by
  intro s hs hle
  have hfault : s.fault = none := running_fault hs
  refine ⟨fun w hp => ?wait, fun hp => ?pump⟩
  case wait =>
    refine ⟨_, clockVal s, (step_waitStep hs hp).trans (congrArg _ (waitCheck_expired hle)), rfl, rfl, rfl, rfl,
      hfault, finish_phase _ _, ?_, ?_, ?_, ?_⟩
    · rintro (rfl | rfl) <;> rfl
    · rintro rfl; rfl
    · rintro rfl; rfl
    · rintro (rfl | ⟨f, rfl⟩) <;> rfl
  case pump =>
    exact ⟨_, clockVal s, (step_pumpDeadline hs hp).trans (congrArg _ (pumpDeadline_expired hle)), rfl, rfl, rfl,
      rfl, hfault, finish_phase _ _, rfl⟩

/-! ## The met polls of step 1 (R172) -/

/-- Where the met wait for `start` leads: to the wait for `data_busy` with a data phase, else to step 2. -/
theorem waitMet_ready_eq (s : State) : waitMet .ready s =
    { s with ph := if (decCmd s.cfg.layout s.wrk.cmdval).dataExpected = 1
      then { s.ph with phase := .wait .notBusy .start } else { s.ph with xstep := 2, phase := .writeArg } } := by
  simp only [waitMet, cmdDataExpected, decide_eq_true_eq]
  split <;> rfl

/-- Settles O58: both polls are met, and `waitMet_ready_eq` says where the first one leads. -/
theorem stepOneReachesSubmit : Obligations.StepOneReachesSubmit := by
  refine ⟨fun s hs hp h => ?ready, fun s hs hp h => ?notBusy⟩
  case ready =>
    have hmet : WaitFor.ready.holds s.cfg.layout (readVal .cmd s) = true :=
      congrArg (!·) (cmdStart_false_of_field h)
    refine ⟨_, step_waitStep hs hp, ?_⟩
    have hfault : s.fault = none := running_fault hs
    simp only [waitStep, waitPoll_met hmet, waitMet_ready_eq]
    exact ⟨rfl, rfl, rfl, rfl, rfl, hfault⟩
  case notBusy =>
    have hmet : WaitFor.notBusy.holds s.cfg.layout (readVal .status s) = true := by
      simp [WaitFor.holds, statusBusy, h]
    have hfault : s.fault = none := running_fault hs
    exact ⟨_, (step_waitStep hs hp).trans (congrArg _ (waitPoll_met hmet)), rfl, rfl, rfl, rfl, rfl, hfault⟩

/-! ## Step 2 (R173) -/

theorem run_submit (hs : s.running) (hp : s.ph.phase = .writeArg) :
    Host.Core.run core 2 s = .next (submitCmd (submitArg s)) := by
  have harg : step s = .next (submitArg s) := step_advance hs (by rw [advance, hp])
  have hcmd : step (submitArg s) = .next (submitCmd (submitArg s)) := step_advance (running_of_eq hs) rfl
  rw [run_succ harg, run_succ hcmd, run_zero]

/-- A write of CMD with `start` set hands over the value with the CMDARG of that moment (20 R68). -/
theorem storeFlight_cmd {p : Params} {v : Word} (h : cmdStart p.layout v = true) (r : Regs) (old : Option Flight) :
    storeFlight p r .cmd v old = some { value := v, arg := r.cmdarg } := if_pos ⟨rfl, h⟩

/-- Settles O22: the two writes of `run_submit`, the second of which hands the command over. -/
theorem submitWritesArgThenCmd : Obligations.SubmitWritesArgThenCmd := fun s hs hp hstart =>
  ⟨submitCmd (submitArg s), run_submit hs hp, rfl, rfl, rfl, storeFlight_cmd hstart _ _, rfl, rfl, rfl, rfl, rfl,
    rfl, rfl⟩

/-! ## Steps 6 to 8 (R179 to R181) -/

/-- Step 6 writes back the value it reads (40 R136). -/
theorem runs_ackWrite (hs : s.running) (hp : s.ph.phase = .ackRead) :
    Runs 2 [wrTxn s.cfg .rintsts (readVal .rintsts s), rdTxn s.cfg .rintsts (readVal .rintsts s)] s
      (ackWrite (ackRead s)) := by
  have hread : Runs 1 [rdTxn s.cfg .rintsts (readVal .rintsts s)] s (ackRead s) := .single hs (by rw [advance, hp])
  exact hread.trans (.single (hread.running hs nofun) rfl)

/-- Step 7 reads the four response words, whatever the environment drives. -/
theorem runs_readResponses (hs : s.running) (hp : s.ph.phase = .readResp0) :
    ∃ r0 r1 r2 r3 t, Runs 4 [rdTxn s.cfg .resp3 r3, rdTxn s.cfg .resp2 r2, rdTxn s.cfg .resp1 r1,
      rdTxn s.cfg .resp0 r0] s t ∧ t.ph.phase = .classify ∧
    t.wrk = { s.wrk with resp0 := r0, resp1 := r1, resp2 := r2, resp3 := r3 } := by
  obtain ⟨r0, t0, h0, hp0, hwrk0⟩ : ∃ r t, Runs 1 [rdTxn s.cfg .resp0 r] s t ∧ t.ph.phase = .readResp1 ∧
      t.wrk = { s.wrk with resp0 := r } := ⟨_, respond0 s, .single hs (by rw [advance, hp]), rfl, rfl⟩
  obtain ⟨r1, t1, h1, hp1, hwrk1⟩ : ∃ r t, Runs 1 [rdTxn t0.cfg .resp1 r] t0 t ∧ t.ph.phase = .readResp2 ∧
      t.wrk = { t0.wrk with resp1 := r } :=
    ⟨_, respond1 t0, .single (h0.running hs (by simp [hp0])) (by rw [advance, hp0]), rfl, rfl⟩
  rw [h0.cfg_eq] at h1
  have h01 := h0.trans h1
  obtain ⟨r2, t2, h2, hp2, hwrk2⟩ : ∃ r t, Runs 1 [rdTxn t1.cfg .resp2 r] t1 t ∧ t.ph.phase = .readResp3 ∧
      t.wrk = { t1.wrk with resp2 := r } :=
    ⟨_, respond2 t1, .single (h01.running hs (by simp [hp1])) (by rw [advance, hp1]), rfl, rfl⟩
  rw [h01.cfg_eq] at h2
  have h012 := h01.trans h2
  obtain ⟨r3, t3, h3, hp3, hwrk3⟩ : ∃ r t, Runs 1 [rdTxn t2.cfg .resp3 r] t2 t ∧ t.ph.phase = .classify ∧
      t.wrk = { t2.wrk with resp3 := r } :=
    ⟨_, respond3 t2, .single (h012.running hs (by simp [hp2])) (by rw [advance, hp2]), rfl, rfl⟩
  rw [h012.cfg_eq] at h3
  exact ⟨r0, r1, r2, r3, t3, h012.trans h3, hp3, by rw [hwrk3, hwrk2, hwrk1, hwrk0]⟩

theorem hasError_iff (l : Layout) (v : Word) : hasError l v = true ↔ v &&& errMask l ≠ 0 := bne_iff_ne

theorem outcomeOf_eq (l : Layout) (v r0 r1 r2 r3 : Word) : outcomeOf l v r0 r1 r2 r3 =
    if v &&& errMask l ≠ 0 then .failed (v.extractLsb' 0 16) else .ok r0 r1 r2 r3 := by
  simp only [outcomeOf, hasError_iff]

/-- A flag that is set is set in the value a read of RINTSTS answers (20 R66). -/
theorem readVal_rintsts_bit {k : Nat} (hk : k < 16) (h : s.regs.rintsts.getLsbD k = true) :
    (readVal .rintsts s).getLsbD k = true := by
  rw [show readVal .rintsts s = (envStep s).regs.rintsts from rfl, envStep_rintsts, raiseFlags_bit _ _ k hk, h,
    Bool.true_or]

/-- Settles O23: the runs of steps 6 and 7, and the classification of the value that step 6 read. -/
theorem acknowledgeRespondClassify : Obligations.AcknowledgeRespondClassify := by
  intro s hs hp
  have hack := runs_ackWrite hs hp
  obtain ⟨r0, r1, r2, r3, t, ht, hpt, hwrk⟩ := runs_readResponses (hack.running hs nofun) rfl
  have hrun := hack.trans ht
  obtain ⟨hcfg, -, -, hctx, -⟩ := terms_eq_iff.mp hrun.terms_eq
  obtain ⟨hses, hmem, -, -, hfault, -⟩ := surroundings_eq_iff.mp hrun.surroundings_eq
  have hout : classifyOutcome t = if readVal .rintsts s &&& errMask s.cfg.layout ≠ 0
      then .failed ((readVal .rintsts s).extractLsb' 0 16) else .ok r0 r1 r2 r3 := by
    rw [classifyOutcome_eq, hwrk, hcfg, outcomeOf_eq]; rfl
  refine ⟨_, readVal .rintsts s, r0, r1, r2, r3,
    (run_add hrun.run_eq).trans (run_classify (hrun.running hs (by simp [hpt])) hpt), hrun.trace_eq,
    congrArg (fun o => some (OpResult.xchg o)) hout, fun _ hk h => readVal_rintsts_bit hk h, rfl, ?_, hwrk, hses, hmem,
    hfault.trans (running_fault hs)⟩
  rw [finish_ph, hctx]

/-! ## Going to another place of the pump -/

/-- `t` is `s` at another place of its operation: the phase registers alone may differ. -/
def Elsewhere (t s : State) : Prop := ∃ ph, t = { s with ph := ph }

section
variable (h : Elsewhere t s)
include h

theorem Elsewhere.cfg_eq : t.cfg = s.cfg := by obtain ⟨ph, rfl⟩ := h; rfl
theorem Elsewhere.env_eq : t.env = s.env := by obtain ⟨ph, rfl⟩ := h; rfl
theorem Elsewhere.wrk_eq : t.wrk = s.wrk := by obtain ⟨ph, rfl⟩ := h; rfl
theorem Elsewhere.trace_eq : t.trace = s.trace := by obtain ⟨ph, rfl⟩ := h; rfl
theorem Elsewhere.mem_eq : t.mem = s.mem := by obtain ⟨ph, rfl⟩ := h; rfl
theorem Elsewhere.ses_eq : t.ses = s.ses := by obtain ⟨ph, rfl⟩ := h; rfl
theorem Elsewhere.fault_eq : t.fault = s.fault := by obtain ⟨ph, rfl⟩ := h; rfl
theorem Elsewhere.surroundings_eq : t.surroundings = s.surroundings := by obtain ⟨ph, rfl⟩ := h; rfl

end

theorem elsewhere_goto (p : Phase) : Elsewhere (s.goto p) s := ⟨_, rfl⟩

theorem elsewhere_gotoStep (k : Fin 9) (p : Phase) : Elsewhere (s.gotoStep k p) s := ⟨_, rfl⟩

theorem elsewhere_pumpExit : Elsewhere (pumpExit s) s := by
  unfold pumpExit; split
  · exact elsewhere_gotoStep 6 .ackRead
  · exact elsewhere_goto .pumpTime

theorem pumpExit_phase (s : State) : (pumpExit s).ph.phase = pumpExitPhase s.cfg.layout s.wrk.snap := by
  unfold pumpExit pumpExitPhase; split <;> rfl

theorem elsewhere_pumpMore : Elsewhere (pumpMore s) s := by
  unfold pumpMore; split
  · exact elsewhere_pumpExit
  · exact elsewhere_goto .pumpCount
  · split
    · exact elsewhere_goto .pumpCount
    · exact elsewhere_pumpExit

theorem pumpMore_read {dst : Dest} {n : Nat} (h : s.wrk.td = .read dst n) : pumpMore s = s.goto .pumpCount := by
  simp only [pumpMore, h]

theorem pumpMore_write {src : Word} {n : Nat} (h : s.wrk.td = .write src n) : pumpMore s =
    if s.wrk.cursor < n then s.goto .pumpCount else pumpExit s := by
  simp only [pumpMore, h]

/-- The write pump reads STATUS next while source words remain, else its exit test follows (R178). -/
theorem pumpMore_write_phase {src : Word} {n : Nat} (h : s.wrk.td = .write src n) : (pumpMore s).ph.phase =
    if s.wrk.cursor < n then .pumpCount else pumpExitPhase s.cfg.layout s.wrk.snap := by
  rw [pumpMore_write h, apply_ite (fun u : State => u.ph.phase), pumpExit_phase]; rfl

/-! ## A pump begins, and loops (R177, R178) -/

theorem step_pumpBegin (hs : s.running) (hp : s.ph.phase = .pumpStart) : step s = pumpBegin s := by
  rw [step_running hs, advance, hp]

theorem pumpBegin_matched (h : descriptorMatches s.cfg.layout s.wrk.cmdval s.wrk.td = true) : pumpBegin s =
    .next (State.goto .pumpSnap { readClock s with wrk := { s.wrk with t0 := clockVal s, cursor := 0 } }) :=
  if_pos h

theorem pumpBegin_mismatched (h : descriptorMatches s.cfg.layout s.wrk.cmdval s.wrk.td = false) :
    pumpBegin s = .refused .descriptorMismatch := if_neg (by simp [h])

/-- Settles O59: the descriptor decides the first step, and inside the deadline the last one goes back to the
snapshot. -/
theorem pumpBeginsAndLoops : Obligations.PumpBeginsAndLoops := by
  refine ⟨fun s hs hp hdata htd => ?begins, fun s hs hp htd => ?refused, fun s hs hp hlt => ?loops⟩
  case begins =>
    have hmatch : descriptorMatches s.cfg.layout s.wrk.cmdval s.wrk.td = true := by
      obtain ⟨⟨dst, n, htd⟩, hdir⟩ | ⟨⟨src, n, htd⟩, hdir⟩ := htd <;>
        simp [htd, descriptorMatches, cmdDataExpected, cmdDirectionWrite, hdata, hdir]
    have hfault : s.fault = none := running_fault hs
    exact ⟨_, clockVal s, (step_pumpBegin hs hp).trans (pumpBegin_matched hmatch), rfl, rfl, rfl, rfl, rfl, rfl,
      hfault⟩
  case refused =>
    refine (step_pumpBegin hs hp).trans (pumpBegin_mismatched ?_)
    obtain ⟨hdata, htd⟩ | ⟨⟨dst, n, htd⟩, hflag | hflag⟩ | ⟨⟨src, n, htd⟩, hflag | hflag⟩ := htd
    · simp [htd, descriptorMatches, cmdDataExpected, hdata]
    all_goals simp [htd, descriptorMatches, cmdDataExpected, cmdDirectionWrite, hflag]
  case loops =>
    have hfault : s.fault = none := running_fault hs
    exact ⟨_, (step_pumpDeadline hs hp).trans (congrArg _ (pumpDeadline_open hlt)), rfl, rfl, rfl, rfl, rfl,
      hfault⟩

/-! ## The head of an iteration (R177, R178, 60 R280) -/

theorem step_pumpSnapshot (hs : s.running) (hp : s.ph.phase = .pumpSnap) : step s = .next (pumpSnapshot s) :=
  step_advance hs (by rw [advance, hp])

/-- The state after the read of RINTSTS, before its tests. -/
def snapped (s : State) : State := noteSnap .rintsts (readVal .rintsts s) (readReg .rintsts s)

theorem elsewhere_pumpSnapshot : Elsewhere (pumpSnapshot s) (snapped s) := by
  unfold pumpSnapshot; split
  · exact elsewhere_pumpMore
  · exact elsewhere_pumpExit

theorem pumpSnapshot_phase (s : State) : (pumpSnapshot s).ph.phase =
    if pumpRequested s.cfg.layout (readVal .rintsts s) s.wrk.td then (pumpMore (snapped s)).ph.phase
    else pumpExitPhase s.cfg.layout (readVal .rintsts s) := by
  unfold pumpSnapshot; split
  · rfl
  · exact pumpExit_phase _

theorem pumpExitPhase_eq (l : Layout) (v : Word) : pumpExitPhase l v =
    if (decRintsts l v).dataTransferOver = 1 ∨ v &&& errMask l ≠ 0 then .ackRead else .pumpTime := by
  simp only [pumpExitPhase, pumpExitFlags, flagTransferOver, Bool.or_eq_true, decide_eq_true_eq, hasError_iff]

/-- Settles O30: `pumpSnapshot_phase` in each direction, the exit test being `pumpExitPhase_eq`. -/
theorem pumpExitBeforeDeadline : Obligations.PumpExitBeforeDeadline := by
  intro s hs hp
  have hkept := elsewhere_pumpSnapshot (s := s)
  have hsnap : (pumpSnapshot s).wrk.snap = readVal .rintsts s := by rw [hkept.wrk_eq]; rfl
  have hcursor : (pumpSnapshot s).wrk.cursor = s.wrk.cursor := by rw [hkept.wrk_eq]; rfl
  refine ⟨pumpSnapshot s, readVal .rintsts s, step_pumpSnapshot hs hp, hkept.trace_eq, hsnap, hcursor, hkept.mem_eq,
    fun dst n htd => ?read, fun src n htd => ?write⟩
  case read =>
    rw [pumpSnapshot_phase, pumpExitPhase_eq, pumpMore_read (s := snapped s) htd, htd]
    simp only [pumpRequested, flagRxRequest, decide_eq_true_eq, goto_ph]
  case write =>
    rw [pumpSnapshot_phase, pumpMore_write_phase (s := snapped s) htd, htd, ← pumpExitPhase_eq]
    simp only [pumpRequested, flagTxRequest, decide_eq_true_eq, ite_and]
    rfl

/-! ## The count tests (R177, R178) -/

theorem step_pumpCount (hs : s.running) (hp : s.ph.phase = .pumpCount) : step s = .next (pumpCount s) :=
  step_advance hs (by rw [advance, hp])

/-- With room left in the buffer the read pump drains at a count of 2 or more. -/
theorem pumpCounted_read {dst : Dest} {n : Nat} (htd : s.wrk.td = .read dst n) (hroom : s.wrk.cursor < n)
    (count : Nat) : pumpCounted count s = if 2 ≤ count then s.goto .pumpMove else pumpExit s := by
  simp only [pumpCounted, htd, if_neg (Nat.not_le.mpr hroom)]; rfl

/-- The write pump fills at a count below 120. -/
theorem pumpCounted_write {src : Word} {n : Nat} (htd : s.wrk.td = .write src n) (count : Nat) :
    pumpCounted count s = if count < 120 then s.goto .pumpMove else pumpExit s := by
  simp only [pumpCounted, htd]; rfl

/-- Going to move a word or to the exit test. -/
theorem elsewhere_moveOrExit {c : Prop} [Decidable c] : Elsewhere (if c then s.goto .pumpMove else pumpExit s) s := by
  split
  · exact elsewhere_goto .pumpMove
  · exact elsewhere_pumpExit

theorem moveOrExit_phase {c : Prop} [Decidable c] : (if c then s.goto .pumpMove else pumpExit s).ph.phase =
    if c then .pumpMove else pumpExitPhase s.cfg.layout s.wrk.snap := by
  rw [apply_ite (fun u : State => u.ph.phase), pumpExit_phase]; rfl

/-- Settles O28: the count read decides between the DATA access and the exit test. -/
theorem pumpThresholds : Obligations.PumpThresholds := by
  refine fun s hs hp => ⟨fun dst n htd hroom => ?_, fun src n htd => ?_⟩
  · have hcount := pumpCounted_read (s := readReg .status s) htd hroom
      (statusCount s.cfg.layout (readVal .status s))
    have hkept := elsewhere_moveOrExit (s := readReg .status s)
      (c := 2 ≤ statusCount s.cfg.layout (readVal .status s))
    exact ⟨_, readVal .status s, (step_pumpCount hs hp).trans (congrArg _ hcount), hkept.trace_eq, hkept.wrk_eq,
      hkept.mem_eq, hkept.fault_eq.trans (running_fault hs), moveOrExit_phase⟩
  · have hcount := pumpCounted_write (s := readReg .status s) htd (statusCount s.cfg.layout (readVal .status s))
    have hkept := elsewhere_moveOrExit (s := readReg .status s)
      (c := statusCount s.cfg.layout (readVal .status s) < 120)
    exact ⟨_, readVal .status s, (step_pumpCount hs hp).trans (congrArg _ hcount), hkept.trace_eq, hkept.wrk_eq,
      hkept.mem_eq, hkept.fault_eq.trans (running_fault hs), moveOrExit_phase⟩

end Sys2Proof.Machine
end

section
/-! SUPPORT. Proofs of the statements of 42_transfer_engine.md about runs against a prompt controller: the whole
exchange of a command that expects a response and has no data phase (R183), and the commit pulse (R184). -/

namespace Sys2Proof.Machine

variable {s t u : State}

/-! ## A command that expects a response and has no data phase (R183) -/

/-- Every such row but GO_IDLE_STATE expects a response, and none has a data phase (41 R151, R152). -/
theorem cmdFields_of_plainExchange {i : Instr} {c : CardCmd} {v a : Word}
    (h : plainExchange s i = some (c, v, a)) (hi : i ≠ .goIdleState) :
    c.fields.responseExpect = 1 ∧ c.fields.dataExpected = 0 := by
  cases i with cases h
  | goIdleState => exact absurd rfl hi
  | _ => exact ⟨rfl, rfl⟩

theorem flagCommandDone_eq (l : Layout) (v : Word) : flagCommandDone l v = v.getLsbD l.rintsts.commandDone := by
  rw [Bool.eq_iff_iff]
  exact decide_eq_true_iff.trans (getField_one v l.rintsts.commandDone)

/-- The poll of step 4 reads `command_done` as 1 when the move before it raises it (20 R66). -/
theorem commandDone_polled {m m' : EnvMove} {ms : List EnvMove} (h : s.env.script = m :: m' :: ms)
    (hdone : flagCommandDone s.cfg.layout m'.rint = true) :
    flagCommandDone s.cfg.layout (readVal .rintsts (waitBegin .done s)) = true := by
  have hmove : nextMove (waitBegin .done s) = m' := nextMove_of_script (congrArg List.tail h)
  have hread : readVal .rintsts (waitBegin .done s) = raiseFlags (waitBegin .done s).regs.rintsts m'.rint :=
    hmove ▸ envStep_rintsts
  rw [flagCommandDone_eq] at hdone
  rw [flagCommandDone_eq, hread, raiseFlags, BitVec.getLsbD_or, hdone, Bool.or_true]

/-- The fourteen transactions of the exchange, eleven of them on registers, up to its classification. -/
theorem runs_plainExchange {m0 m1 m2 m3 m4 m5 m6 m7 m8 m9 m10 m11 m12 m13 : EnvMove} {ms : List EnvMove}
    (hs : s.running) (hp : s.ph.phase = .wait .ready .start)
    (hresponse : cmdResponseExpect s.cfg.layout s.wrk.cmdval = true)
    (hdata : cmdDataExpected s.cfg.layout s.wrk.cmdval = false)
    (hscript : s.env.script = m0 :: m1 :: m2 :: m3 :: m4 :: m5 :: m6 :: m7 :: m8 :: m9 :: m10 :: m11 :: m12 ::
      m13 :: ms)
    (h1 : cmdStart s.cfg.layout m1.cmd = false) (h5 : cmdStart s.cfg.layout m5.cmd = false)
    (h7 : flagCommandDone s.cfg.layout m7.rint = true) :
    ∃ c0 c1 d v n0 n1 n2 t, Runs 14 [rdTxn s.cfg .resp3 m13.resp3, rdTxn s.cfg .resp2 m12.resp2,
      rdTxn s.cfg .resp1 m11.resp1, rdTxn s.cfg .resp0 m10.resp0, wrTxn s.cfg .rintsts v, rdTxn s.cfg .rintsts v,
      rdTxn s.cfg .rintsts d, .now n2, rdTxn s.cfg .cmd c1, .now n1, wrTxn s.cfg .cmd s.wrk.cmdval,
      wrTxn s.cfg .cmdarg s.wrk.arg, rdTxn s.cfg .cmd c0, .now n0] s t ∧ t.ph.phase = .classify ∧
    classifyOutcome t = outcomeOf s.cfg.layout v m10.resp0 m11.resp1 m12.resp2 m13.resp3 := by
  have hstep4 : ∀ u : State, u.terms = s.terms → enterStep4 u = u.gotoStep 4 (.wait .done .start) := fun u hu => by
    obtain ⟨hcfg, hcmd, -⟩ := terms_eq_iff.mp hu
    rw [enterStep4, hcfg, hcmd, if_pos hresponse]
  have hstep5 : ∀ u : State, u.terms = s.terms → waitMet .done u = u.gotoStep 6 .ackRead := fun u hu => by
    obtain ⟨hcfg, hcmd, -⟩ := terms_eq_iff.mp hu
    simp [waitMet, enterStep5, hcfg, hcmd, hdata]
  obtain ⟨c0, c1, n0, n1, t, ht, hpt⟩ := runs_untilAccepted hs hp hdata hscript h1 h5 hstep4
  have hdone := commandDone_polled (ht.script hscript) (by rw [ht.cfg_eq]; exact h7)
  obtain ⟨d, n2, u, hu, hpu⟩ := runs_waitMet (ht.running hs (by simp [hpt])) hpt hdone
    (fun u hu => hstep5 u (hu.trans ht.terms_eq))
  have htu := ht.trans hu
  obtain ⟨v, w, hw, hpw, hout⟩ := runs_untilClassify (htu.running hs (by simp [hpu])) hpu (htu.script hscript)
  have hall := htu.trans hw
  rw [htu.cfg_eq, ht.cfg_eq] at hall
  rw [htu.cfg_eq] at hout
  exact ⟨c0, c1, d, v, n0, n1, n2, w, hall, hpw, hout⟩

/-- Settles O12: the run of its transactions (`runs_plainExchange`) and the classification, which leave the surroundings
alone. -/
theorem plainExchangeRuns : Obligations.PlainExchangeRuns := by
  intro s i c cv a m0 m1 m2 m3 m4 m5 m6 m7 m8 m9 m10 m11 m12 m13 rest hs hport hidle hrow hi hscript h1 h5 h7
  have ⟨_, hw, hnone⟩ := hs
  obtain ⟨hexpect, hnodata⟩ := cmdFields_of_plainExchange hrow hi
  have hresponse : cmdResponseExpect s.cfg.layout (cardValue s.cfg c) = true := by
    rw [cmdResponseExpect_cardValue hw, hexpect]; rfl
  have hdata : cmdDataExpected s.cfg.layout (cardValue s.cfg c) = false := by
    rw [cmdDataExpected_cardValue hw, hnodata]; rfl
  have hstarted : (startXchg c a .none .bare s).running := ⟨hs, hport, nofun⟩
  obtain ⟨c0, c1, d, v, n0, n1, n2, u, hu, hpu, hout⟩ :=
    runs_plainExchange hstarted rfl hresponse hdata hscript h1 h5 h7
  obtain ⟨-, -, -, hctx, hbusy⟩ := terms_eq_iff.mp hu.terms_eq
  obtain ⟨hses, hmem, hcompletion, -, hfault, -⟩ := surroundings_eq_iff.mp hu.surroundings_eq
  have hclassify := run_classify (hu.running hstarted (by simp [hpu])) hpu
  have hend : (finish (.xchg (classifyOutcome u)) u).isIdle = true :=
    finish_isIdle _ (congrArg Ctx.alone hctx) (hbusy.trans (isIdle_iff.mp hidle).2)
  exact ⟨_, _, c0, c1, d, v, n0, n1, n2, (exec_of_plainExchange hrow).trans (accept_idle hidle _),
    (run_add hu.run_eq).trans hclassify, congrArg (fun o => some (OpResult.xchg o)) hout, hu.trace_eq, hend, rfl, hses,
    hmem, hcompletion, hfault.trans hnone⟩

/-! ## The commit pulse (R184, 20 R69) -/

/-- The pulse stands in CMD and has not been accepted. -/
def pulsePending (s : State) : Prop := cmdStart s.cfg.layout s.regs.cmd = true ∧ pulseInFlight s = true

/-- Nothing is in flight, and the card clock runs on the values of CLKDIV and CLKENA. -/
def clockCommitted (s : State) : Prop :=
  s.env.flight = none ∧ s.env.cardDiv = s.regs.clkdiv ∧ s.env.cardEna = s.regs.clkena

/-- The move that lowers `start` accepts the pulse. -/
theorem pulsePending.accepted (h : pulsePending s) (h0 : cmdStart s.cfg.layout (nextMove s).cmd = false) :
    clockCommitted (envStep s) := by
  obtain ⟨hstart, hpulse⟩ := h
  have hfalls : cmdStart s.cfg.layout (envStep s).regs.cmd = false := by
    rw [envStep_cmdStart, h0, Bool.and_false]
  have haccepts : accepts s.cfg (dropMove s) (nextMove s) = true := by
    rw [accepts, dropMove_regs, hstart, Bool.true_and, ← envStep_cmd, hfalls]; rfl
  have hboth : (accepts s.cfg (dropMove s) (nextMove s) && pulseInFlight (dropMove s)) = true := by
    rw [haccepts, Bool.true_and]; exact hpulse
  exact ⟨envStep_accepts hstart hfalls, envStep_cardDiv.trans (if_pos hboth), envStep_cardEna.trans (if_pos hboth)⟩

/-- Any other move leaves the pulse where it is. -/
theorem pulsePending.kept (h : pulsePending s) (h1 : cmdStart s.cfg.layout (nextMove s).cmd = true) :
    pulsePending (envStep s) := by
  obtain ⟨hstart, hpulse⟩ := h
  have hstays : cmdStart s.cfg.layout (envStep s).regs.cmd = true := by rw [envStep_cmdStart, hstart, h1]; rfl
  have hflight : (envStep s).env.flight = s.env.flight := by
    rcases envStep_flight (s := s) with hf | ⟨-, hf⟩
    · exact hf
    · cases hf.symm.trans hstays
  refine ⟨hstays, ?_⟩
  rw [pulseInFlight, hflight]; exact hpulse

theorem pulsePending.moved (h : pulsePending s) : pulsePending (envStep s) ∨ clockCommitted (envStep s) := by
  cases h0 : cmdStart s.cfg.layout (nextMove s).cmd with
  | false => exact .inr (h.accepted h0)
  | true => exact .inl (h.kept h0)

/-- Once committed the clock stays as it is: with nothing in flight no move changes it. -/
theorem clockCommitted.moved (h : clockCommitted s) : clockCommitted (envStep s) := by
  obtain ⟨hflight, hdiv, hena⟩ := h
  have hf : (envStep s).env.flight = none := by
    rcases envStep_flight (s := s) with hf | ⟨hf, -⟩
    · exact hf.trans hflight
    · exact hf
  rcases envStep_card (s := s) with ⟨hd, he⟩ | ⟨-, -, -, -, -, hd, he⟩
  · exact ⟨hf, hd.trans hdiv, he.trans hena⟩
  · exact ⟨hf, hd, he⟩

/-- The write of CMD puts the pulse in flight, whatever was there (notes/assumptions/34.md). -/
theorem pulsePending_writePulse (hw : s.cfg.wf = true) : pulsePending (writePulse s) := by
  have hstart : cmdStart s.cfg.layout (commitValue s.cfg) = true := cmdStart_commitValue hw
  have hflight : (writePulse s).env.flight = some { value := commitValue s.cfg, arg := s.regs.cmdarg } :=
    storeFlight_cmd hstart (envStep s).regs _
  refine ⟨hstart, ?_⟩
  rw [pulseInFlight, hflight]; exact beq_self_eq_true _

/-- The state at the first poll of a commit pulse. -/
def pulsePolled (s : State) : State := waitBegin .pulse (writePulse s)

/-- The state after a commit pulse whose first poll ends it. -/
def pulseAnswered (s : State) : State :=
  finish .done (noteSnap .cmd (readVal .cmd (pulsePolled s)) (readReg .cmd (pulsePolled s)))

/-- The write of CMD and the read of the clock that begins the wait. -/
theorem runs_pulsePolled (hs : s.running) (hp : s.ph.phase = .pulseWrite) :
    Runs 2 [.now (clockVal (writePulse s)), wrTxn s.cfg .cmd s.cfg.commitClkValue] s (pulsePolled s) := by
  have hwrite : Runs 1 [wrTxn s.cfg .cmd s.cfg.commitClkValue] s (writePulse s) := .single hs (by rw [advance, hp])
  exact hwrite.trans (.single (hwrite.running hs nofun) rfl)

/-- Neither the environment nor the pulse writes CLKDIV, CLKENA or CMDARG. -/
theorem pulseAnswered_own (s : State) : (pulseAnswered s).regs.clkdiv = s.regs.clkdiv ∧
    (pulseAnswered s).regs.clkena = s.regs.clkena ∧ (pulseAnswered s).regs.cmdarg = s.regs.cmdarg := ⟨rfl, rfl, rfl⟩

/-- The pulse leaves the session and client memory alone. -/
theorem pulseAnswered_session (s : State) : (pulseAnswered s).ses = s.ses ∧ (pulseAnswered s).mem = s.mem := by
  simp only [pulseAnswered, finish_ses, finish_mem, noteSnap_ses, noteSnap_mem, readReg_ses, readReg_mem]
  exact ⟨rfl, rfl⟩

section
variable {m0 m1 m2 : EnvMove} {ms : List EnvMove} (hs : s.running) (hp : s.ph.phase = .pulseWrite)
  (hscript : s.env.script = m0 :: m1 :: m2 :: ms) (h2 : cmdStart s.cfg.layout m2.cmd = false)
include hs hp hscript h2

/-- With `start` 0 before the first poll, the third move after the acceptance of the pulse has it accepted at the
latest. -/
theorem clockCommitted_pulseAnswered : clockCommitted (pulseAnswered s) := by
  have hmove : nextMove (pulsePolled s) = m2 := nextMove_of_script ((runs_pulsePolled hs hp).script hscript)
  have h0 : cmdStart (pulsePolled s).cfg.layout (nextMove (pulsePolled s)).cmd = false := by rw [hmove]; exact h2
  rcases (pulsePending_writePulse (running_wf hs)).moved with h | h
  · exact pulsePending.accepted (s := pulsePolled s) h h0
  · exact clockCommitted.moved (s := pulsePolled s) h

/-- The poll that reads `start` as 0 ends the pulse. -/
theorem step_pulsePolled : step (pulsePolled s) = .next (pulseAnswered s) := by
  have hstart : cmdStart s.cfg.layout (readVal .cmd (pulsePolled s)) = false :=
    cmdStart_polled (s := writePulse s) .pulse (congrArg List.tail hscript) h2
  have hmet : WaitFor.pulse.holds s.cfg.layout (readVal .cmd (pulsePolled s)) = true := congrArg (!·) hstart
  exact (step_waitStep ((runs_pulsePolled hs hp).running hs nofun) rfl).trans
    (congrArg _ (waitPoll_met (s := pulsePolled s) hmet))

theorem run_pulseAnswered : Host.Core.run core 3 s = .next (pulseAnswered s) :=
  (run_add (runs_pulsePolled hs hp).run_eq).trans
    ((run_succ (step_pulsePolled hs hp hscript h2)).trans run_zero)

end

/-- A pulse answered leaves the trace with its write of CMD and its poll. -/
theorem pulseAnswered_trace (s : State) : ∃ c n, (pulseAnswered s).trace =
    rdTxn s.cfg .cmd c :: .now n :: wrTxn s.cfg .cmd s.cfg.commitClkValue :: s.trace := ⟨_, _, rfl⟩

/-- Settles O14: the run of the pulse, at the end of which the clock is committed with the values CLKDIV and CLKENA
held. -/
theorem commitPulseRuns : Obligations.CommitPulseRuns := by
  intro s m0 m1 m2 rest hs hport hidle hscript h2
  have hstarted : (issueCommitClk .bare s).running := ⟨hs, hport, nofun⟩
  obtain ⟨hflight, hdiv, hena⟩ := clockCommitted_pulseAnswered hstarted rfl hscript h2
  obtain ⟨hclkdiv, hclkena, hcmdarg⟩ := pulseAnswered_own (issueCommitClk .bare s)
  obtain ⟨c, n, htrace⟩ := pulseAnswered_trace (issueCommitClk .bare s)
  obtain ⟨hses, hmem⟩ := pulseAnswered_session (issueCommitClk .bare s)
  have hend : (pulseAnswered (issueCommitClk .bare s)).isIdle = true :=
    finish_isIdle _ rfl (isIdle_iff.mp hidle).2
  exact ⟨_, _, c, n, accept_idle hidle _, run_pulseAnswered hstarted rfl hscript h2, rfl, htrace, hdiv.trans hclkdiv,
    hena.trans hclkena, hflight, hcmdarg, hend, hses, hmem⟩

end Sys2Proof.Machine
end

section
/-! SUPPORT. Proofs of the statements of 42_transfer_engine.md about the words of the pumps (R177, R178): the bytes a
word stands in (20_memory.md R63), one word of a pump, and the whole drain and fill against a quiet controller. -/

namespace Sys2Proof.Machine

variable {s t u : State}

/-! ## The bytes of a word (20 R63) -/

theorem fifoWidth_bytes_le (w : FifoWidth) : w.bytes ≤ 8 := by cases w <;> decide

theorem wordMask_bit (w : FifoWidth) (k : Nat) : (wordMask w).getLsbD k = decide (k < 8 * w.bytes) := by
  cases w with
  | w4 =>
    rw [show wordMask .w4 = (BitVec.allOnes 32).setWidth 64 by decide, BitVec.getLsbD_setWidth, BitVec.getLsbD_allOnes]
    simp only [FifoWidth.bytes]
    grind
  | w8 => rw [show wordMask .w8 = BitVec.allOnes 64 by decide, BitVec.getLsbD_allOnes]; rfl

/-- The mask of a word leaves its bytes. -/
theorem masked_byte {w : FifoWidth} {j : Nat} (hj : j < w.bytes) (v : DWord) :
    (v &&& wordMask w).extractLsb' (8 * j) 8 = v.extractLsb' (8 * j) 8 := by
  apply BitVec.eq_of_getLsbD_eq
  intro k hk
  rw [BitVec.getLsbD_extractLsb', BitVec.getLsbD_extractLsb', BitVec.getLsbD_and, wordMask_bit,
    decide_eq_true (show 8 * j + k < 8 * w.bytes by omega), Bool.and_true]

/-- A masked word fits in the bytes of one access. -/
theorem masked_lt (w : FifoWidth) (v : DWord) : (v &&& wordMask w).toNat < 256 ^ w.bytes := by
  cases w with
  | w4 => exact (BitVec.toNat_and ..).trans_lt (Nat.and_le_right.trans_lt (by decide))
  | w8 => exact (v &&& wordMask .w8).isLt

/-- Byte `j` of word `k` of a client buffer as the pump sends it. -/
theorem sentWord_byte (p : Params) (m : Memory) (src : Word) (k : Nat) {j : Nat} (hj : j < p.w.bytes) :
    (m.readLE (bufferWord p src k) p.w.bytes &&& wordMask p.w).extractLsb' (8 * j) 8 =
      m.read (512 * src.toNat + k * p.w.bytes + j) :=
  (masked_byte hj _).trans (memory_readLE_byte m _ _ j hj (fifoWidth_bytes_le p.w))

section
variable {p : Params} {h : Word} {k : Nat} {v : DWord} {m : Memory}

/-- Byte `j` of a word stored to a client buffer. -/
theorem destMemory_byte (hm : m.wf = true) {j : Nat} (hj : j < p.w.bytes) :
    (destMemory p (.client h) k v m).read (512 * h.toNat + k * p.w.bytes + j) = v.extractLsb' (8 * j) 8 :=
  memory_read_writeLE_self m _ _ v j hj hm

/-- A byte outside the word stored reads as before. -/
theorem destMemory_outside {a : Nat} (ha : a < 512 * h.toNat + k * p.w.bytes ∨
    512 * h.toNat + (k + 1) * p.w.bytes ≤ a) : (destMemory p (.client h) k v m).read a = m.read a := by
  rw [Nat.add_one_mul k, ← Nat.add_assoc] at ha
  exact memory_read_writeLE_ne m _ _ v a ha

end

/-! ## One word of a pump (R177, R178) -/

theorem step_pumpMove (hs : s.running) (hp : s.ph.phase = .pumpMove) : step s = .next (pumpMove s) :=
  step_advance hs (by rw [advance, hp])

/-- The read pump stores the word it loads, and reads STATUS next. -/
theorem pumpMove_read {dst : Dest} {n : Nat} (h : s.wrk.td = .read dst n) : pumpMove s =
    (putWord dst s.wrk.cursor (fifoVal s) (fifoRead s)).advanceCursor.goto .pumpCount := by
  simp only [pumpMove, h]
  exact pumpMore_read h

/-- The state after the write pump has stored a word to DATA. -/
def wordSent (src : Word) (s : State) : State := (fifoWrite (getWord src s.wrk.cursor s) s).advanceCursor

theorem pumpMove_write {src : Word} {n : Nat} (h : s.wrk.td = .write src n) :
    pumpMove s = pumpMore (wordSent src s) := by
  simp only [pumpMove, h]; rfl

/-- A load of DATA answers the oldest word (20 R70). -/
theorem fifoVal_of_cons {x : DWord} {xs : List DWord} (h : (envStep s).env.fifo = x :: xs) :
    fifoVal s = x &&& wordMask s.cfg.w := by rw [fifoVal, h]

/-- Settles O60: one access of DATA (`pumpMove_read`, `pumpMove_write`), the bytes by `destMemory_byte` and
`sentWord_byte`. -/
theorem pumpMovesOneWord : Obligations.PumpMovesOneWord := by
  refine ⟨fun s dst n hs hp htd => ?read, fun s src n hs hp htd => ?write⟩
  case read =>
    have hfault : s.fault = none := running_fault hs
    refine ⟨_, fifoVal s, (step_pumpMove hs hp).trans (congrArg _ (pumpMove_read htd)), rfl,
      fun x xs hx => ⟨fifoVal_of_cons hx, congrArg List.tail hx⟩, rfl, rfl, rfl, rfl, rfl, hfault, ?_, ?_⟩
    · rintro rfl; rfl
    · rintro h rfl
      exact ⟨rfl, fun hm j hj => destMemory_byte hm hj, fun a ha => destMemory_outside ha⟩
  case write =>
    have hkept := elsewhere_pumpMore (s := wordSent src s)
    exact ⟨_, getWord src s.wrk.cursor s &&& wordMask s.cfg.w,
      (step_pumpMove hs hp).trans (congrArg _ (pumpMove_write htd)), hkept.trace_eq, masked_lt _ _,
      fun j hj => sentWord_byte s.cfg s.mem src s.wrk.cursor hj, hkept.wrk_eq, hkept.mem_eq,
      pumpMore_write_phase (s := wordSent src s) htd, hkept.ses_eq, hkept.fault_eq.trans (running_fault hs)⟩

/-! ## The moves to come (20 R70, R71) -/

/-- The next `k` moves listed all satisfy `P`. -/
def NextMoves (P : EnvMove → Prop) (k : Nat) (l : List EnvMove) : Prop :=
  ∃ ms rest, l = ms ++ rest ∧ ms.length = k ∧ ∀ m ∈ ms, P m

theorem NextMoves.head {P : EnvMove → Prop} {k : Nat} (h : NextMoves P (k + 1) s.env.script) : P (nextMove s) := by
  obtain ⟨ms, rest, hl, hlen, hP⟩ := h
  obtain ⟨m, ms, rfl⟩ := List.exists_cons_of_length_eq_add_one hlen
  rw [nextMove_of_script hl]
  exact hP m List.mem_cons_self

theorem NextMoves.drop {P : EnvMove → Prop} {j k : Nat} {l : List EnvMove} (h : NextMoves P (j + k) l) :
    NextMoves P k (l.drop j) := by
  obtain ⟨ms, rest, rfl, hlen, hP⟩ := h
  exact ⟨ms.drop j, rest, List.drop_append_of_le_length (by omega), by simp [hlen],
    fun m hm => hP m (List.mem_of_mem_drop hm)⟩

theorem NextMoves.tail {P : EnvMove → Prop} {k : Nat} {l : List EnvMove} (h : NextMoves P (k + 1) l) :
    NextMoves P k l.tail := by
  rw [Nat.add_comm] at h
  rw [← List.drop_one]
  exact h.drop

/-- The count that a STATUS read shows (20 R70). -/
theorem statusCount_readVal (hw : s.cfg.wf = true) : statusCount s.cfg.layout (readVal .status s) =
    (s.cfg.units.count * (envStep s).env.fifo.length + (envStep s).env.residue) % 8192 :=
  (statusCount_moveStatus hw _ _).trans (BitVec.toNat_ofNat ..)

theorem resetBit_reads_eq (l : Layout) (v : Word) (f : ResetBit) : f.reads l v = v.getLsbD (f.pos l) := by
  rw [Bool.eq_iff_iff]
  exact decide_eq_true_iff.trans (getField_one v (f.pos l))

/-- A FIFO reset bit that reads 0 stays 0 (20 R67). -/
theorem fifoReset_moveCtrl {p : Params} {old : Word} (h : ResetBit.reads p.layout old .fifo = false) (up : Word) :
    ResetBit.reads p.layout (moveCtrl p old up) .fifo = false := by
  rw [resetBit_reads_eq] at h ⊢
  by_cases hk : p.layout.ctrl.fifoReset < 32
  · have hmask : (resetMask p.layout).getLsbD p.layout.ctrl.fifoReset = true := by
      simp [resetMask, fieldMask, putField_bit_self _ hk]
    exact (resetBit_moveCtrl p old up _ hmask).trans ((congrArg (· && _) h).trans (Bool.false_and _))
  · exact BitVec.getLsbD_of_ge _ _ (Nat.not_lt.mp hk)

/-- A quiet move with no FIFO reset in progress leaves the FIFO as it is. -/
theorem fifo_of_quiet (h : fifoQuiet (nextMove s)) (hr : ResetBit.reads s.cfg.layout s.regs.ctrl .fifo = false) :
    (envStep s).env.fifo = s.env.fifo ∧ (envStep s).env.residue = 0 := by
  obtain ⟨htaken, hput, hresidue⟩ := h
  have hends : fifoResetEnds s.cfg (dropMove s) (nextMove s) = false := by
    rw [fifoResetEnds, dropMove_regs, hr, Bool.false_and]
  refine ⟨?_, by rw [envStep_residue, hresidue, Nat.zero_mod]⟩
  rw [envStep_fifo, moveFifo, dropMove_cfg, hends, htaken, hput]
  exact List.append_nil _

/-! ## The drain (R177) -/

/-- The words `vs` have gone from DATA to the read destination `dst`; the parameters, the snapshot, the
session and the fault are as before. -/
structure Took (dst : Dest) (vs : List DWord) (s t : State) : Prop where
  cfg_eq : t.cfg = s.cfg
  snap_eq : t.wrk.snap = s.wrk.snap
  cursor_eq : t.wrk.cursor = s.wrk.cursor + vs.length
  mem_eq : t.mem = fillMemory s.cfg dst s.wrk.cursor vs s.mem
  scr_eq : t.wrk.scr = fillScr s.cfg dst s.wrk.cursor vs s.wrk.scr
  ses_eq : t.ses = s.ses
  fault_eq : t.fault = s.fault

theorem fillMemory_append (p : Params) (dst : Dest) (k : Nat) (vs ws : List DWord) (m : Memory) :
    fillMemory p dst k (vs ++ ws) m = fillMemory p dst (k + vs.length) ws (fillMemory p dst k vs m) := by
  induction vs generalizing k m with
  | nil => rfl
  | cons v vs ih =>
    rw [List.cons_append, fillMemory, ih, List.length_cons, fillMemory, Nat.add_right_comm, Nat.add_assoc]

theorem fillScr_append (p : Params) (dst : Dest) (k : Nat) (vs ws : List DWord) (x : DWord) :
    fillScr p dst k (vs ++ ws) x = fillScr p dst (k + vs.length) ws (fillScr p dst k vs x) := by
  induction vs generalizing k x with
  | nil => rfl
  | cons v vs ih =>
    rw [List.cons_append, fillScr, ih, List.length_cons, fillScr, Nat.add_right_comm, Nat.add_assoc]

theorem Took.trans {dst : Dest} {vs ws : List DWord} (h : Took dst vs s t) (k : Took dst ws t u) :
    Took dst (vs ++ ws) s u where
  cfg_eq := k.cfg_eq.trans h.cfg_eq
  snap_eq := k.snap_eq.trans h.snap_eq
  cursor_eq := by rw [k.cursor_eq, h.cursor_eq, List.length_append, Nat.add_assoc]
  mem_eq := by rw [k.mem_eq, h.cfg_eq, h.cursor_eq, h.mem_eq, fillMemory_append]
  scr_eq := by rw [k.scr_eq, h.cfg_eq, h.cursor_eq, h.scr_eq, fillScr_append]
  ses_eq := k.ses_eq.trans h.ses_eq
  fault_eq := k.fault_eq.trans h.fault_eq

/-- A read pump at the place `p` of its drain, with the words `vs` to take and `left` to leave: fewer than two
locations, or the count test would let one more word through. The next `k` moves leave the FIFO alone. -/
structure Draining (p : Phase) (k : Nat) (dst : Dest) (n : Nat) (vs left : List DWord) (s : State) : Prop where
  running : s.running
  phase_eq : s.ph.phase = p
  td_eq : s.wrk.td = .read dst n
  fifo_eq : s.env.fifo = vs ++ left
  moves : NextMoves fifoQuiet k s.env.script
  no_reset : ResetBit.reads s.cfg.layout s.regs.ctrl .fifo = false
  room : s.wrk.cursor + vs.length ≤ n
  few : s.cfg.units.count * left.length < 2
  enough : 2 ≤ s.cfg.units.count * (left.length + 1)
  shown : s.cfg.units.count * (vs.length + left.length) < 8192

section
variable {p : Phase} {k n : Nat} {dst : Dest} {v : DWord} {vs left : List DWord}

/-- The next move leaves the FIFO, and no reset is in progress after it. -/
theorem Draining.moved (h : Draining p (k + 1) dst n vs left s) :
    (envStep s).env.fifo = vs ++ left ∧ (envStep s).env.residue = 0 ∧
      ResetBit.reads s.cfg.layout (envStep s).regs.ctrl .fifo = false := by
  obtain ⟨hfifo, hresidue⟩ := fifo_of_quiet h.moves.head h.no_reset
  exact ⟨hfifo.trans h.fifo_eq, hresidue, fifoReset_moveCtrl h.no_reset _⟩

theorem Draining.count_eq (h : Draining p (k + 1) dst n vs left s) :
    statusCount s.cfg.layout (readVal .status s) = s.cfg.units.count * (vs.length + left.length) := by
  obtain ⟨hfifo, hresidue, -⟩ := h.moved
  rw [statusCount_readVal (running_wf h.running), hfifo, hresidue, List.length_append, Nat.add_zero,
    Nat.mod_eq_of_lt h.shown]

/-- With a word to take, the count lets it through. -/
theorem Draining.step_count (h : Draining .pumpCount (k + 1) dst n (v :: vs) left s) :
    ∃ t, step s = .next t ∧ Took dst [] s t ∧ Draining .pumpMove k dst n (v :: vs) left t := by
  obtain ⟨hfifo, -, hreset⟩ := h.moved
  have hroom : s.wrk.cursor < n := lt_of_lt_of_le (by simp) h.room
  have hcount : 2 ≤ statusCount s.cfg.layout (readVal .status s) := by
    rw [h.count_eq]
    exact h.enough.trans (Nat.mul_le_mul_left _ (by rw [List.length_cons]; omega))
  have hmove : pumpCount s = (readReg .status s).goto .pumpMove :=
    (pumpCounted_read (s := readReg .status s) h.td_eq hroom _).trans (if_pos hcount)
  refine ⟨_, (step_pumpCount h.running h.phase_eq).trans (congrArg _ hmove), ⟨rfl, rfl, rfl, rfl, rfl, rfl, rfl⟩, ?_⟩
  exact ⟨running_of_eq h.running, rfl, h.td_eq, hfifo, h.moves.tail, hreset, h.room, h.few, h.enough, h.shown⟩

/-- The oldest word goes to the destination. -/
theorem Draining.step_move (h : Draining .pumpMove (k + 1) dst n (v :: vs) left s) :
    ∃ t, step s = .next t ∧ Took dst [v] s t ∧ Draining .pumpCount k dst n vs left t := by
  obtain ⟨hfifo, -, hreset⟩ := h.moved
  have hroom := h.room
  have hshown : s.cfg.units.count * (vs.length + left.length) < 8192 :=
    lt_of_le_of_lt (Nat.mul_le_mul_left _ (by rw [List.length_cons]; omega)) h.shown
  have hmove := pumpMove_read h.td_eq
  rw [fifoVal_of_cons hfifo] at hmove
  refine ⟨_, (step_pumpMove h.running h.phase_eq).trans (congrArg _ hmove), ⟨rfl, rfl, rfl, rfl, rfl, rfl, rfl⟩, ?_⟩
  exact ⟨running_of_eq h.running, rfl, h.td_eq, congrArg List.tail hfifo, h.moves.tail, hreset,
    by rw [List.length_cons] at hroom; exact (by omega : s.wrk.cursor + 1 + vs.length ≤ n), h.few, h.enough, hshown⟩

/-- With no word to take, the count ends the drain with the exit test. -/
theorem Draining.step_end (h : Draining .pumpCount 1 dst n [] left s) :
    ∃ t, step s = .next t ∧ Took dst [] s t ∧ t.env.fifo = left ∧
      t.ph.phase = pumpExitPhase s.cfg.layout s.wrk.snap := by
  obtain ⟨hfifo, -, -⟩ := h.moved
  have hcount : ¬ rxLowWater ≤ statusCount s.cfg.layout (readVal .status s) := by
    rw [h.count_eq, List.length_nil, Nat.zero_add]; exact Nat.not_le.mpr h.few
  have hexit : pumpCount s = pumpExit (readReg .status s) := by
    rw [pumpCount, pumpCounted, readReg_wrk, h.td_eq]; exact if_neg hcount
  have hkept := elsewhere_pumpExit (s := readReg .status s)
  refine ⟨_, (step_pumpCount h.running h.phase_eq).trans (congrArg _ hexit), ?_,
    (congrArg Env.fifo hkept.env_eq).trans hfifo, pumpExit_phase _⟩
  exact ⟨hkept.cfg_eq, congrArg WorkRegs.snap hkept.wrk_eq,
    congrArg WorkRegs.cursor hkept.wrk_eq, hkept.mem_eq, congrArg WorkRegs.scr hkept.wrk_eq, hkept.ses_eq,
    hkept.fault_eq⟩

/-- The whole drain: two steps a word, and the STATUS read that ends it. -/
theorem Draining.run (h : Draining .pumpCount (2 * vs.length + 1) dst n vs left s) :
    ∃ t, Host.Core.run core (2 * vs.length + 1) s = .next t ∧ Took dst vs s t ∧ t.env.fifo = left ∧
      t.ph.phase = pumpExitPhase s.cfg.layout s.wrk.snap := by
  induction vs generalizing s with
  | nil =>
    obtain ⟨t, hstep, ht⟩ := h.step_end
    exact ⟨t, (run_succ hstep).trans run_zero, ht⟩
  | cons v vs ih =>
    obtain ⟨t, hcount, ht, hdt⟩ := h.step_count
    obtain ⟨u, hmove, hu, hdu⟩ := hdt.step_move
    obtain ⟨w, hrun, hw, hfifo, hphase⟩ := ih hdu
    have htw : Took dst (v :: vs) s w := (ht.trans hu).trans hw
    exact ⟨w, (run_succ hcount).trans ((run_succ hmove).trans hrun), htw, hfifo,
      hphase.trans (by rw [(ht.trans hu).cfg_eq, (ht.trans hu).snap_eq])⟩

end

/-! ## The bytes of the words taken (20 R63) -/

section
variable {p : Params} {h : Word}

/-- The SCR buffer is the block's own: no word that goes there is stored to client memory. -/
theorem fillMemory_scr (k : Nat) (vs : List DWord) (m : Memory) : fillMemory p .scr k vs m = m := by
  induction vs generalizing k with
  | nil => rfl
  | cons v vs ih => exact ih (k + 1)

/-- A byte outside the words stored reads as before. -/
theorem fillMemory_outside {k a : Nat} {vs : List DWord} {m : Memory} (ha : a < 512 * h.toNat + k * p.w.bytes ∨
    512 * h.toNat + (k + vs.length) * p.w.bytes ≤ a) : (fillMemory p (.client h) k vs m).read a = m.read a := by
  induction vs generalizing k m with
  | nil => rfl
  | cons v vs ih =>
    simp only [List.length_cons, Nat.add_mul, Nat.one_mul] at ha
    have hhead : a < 512 * h.toNat + k * p.w.bytes ∨ 512 * h.toNat + (k + 1) * p.w.bytes ≤ a := by
      rw [Nat.add_one_mul k]; omega
    have htail : a < 512 * h.toNat + (k + 1) * p.w.bytes ∨ 512 * h.toNat + (k + 1 + vs.length) * p.w.bytes ≤ a := by
      simp only [Nat.add_mul, Nat.one_mul]; omega
    rw [fillMemory, ih htail, destMemory_outside hhead]

/-- Byte `j` of the `i`-th word stored is its bits `8j` to `8j + 7`: the words after it go to later places. -/
theorem fillMemory_byte {k i j : Nat} {v : DWord} {vs : List DWord} {m : Memory} (hm : m.wf = true)
    (hv : vs[i]? = some v) (hj : j < p.w.bytes) :
    (fillMemory p (.client h) k vs m).read (512 * h.toNat + (k + i) * p.w.bytes + j) = v.extractLsb' (8 * j) 8 := by
  induction vs generalizing k i m with
  | nil => cases hv
  | cons x vs ih =>
    cases i with
    | zero =>
      cases hv
      have hbefore : 512 * h.toNat + k * p.w.bytes + j < 512 * h.toNat + (k + 1) * p.w.bytes := by
        rw [Nat.add_one_mul k]; omega
      rw [Nat.add_zero, fillMemory, fillMemory_outside (.inl hbefore), destMemory_byte hm hj, masked_byte hj]
    | succ i =>
      rw [fillMemory, show k + (i + 1) = k + 1 + i by omega]
      exact ih (memory_wf_writeLE _ _ _ _ hm) hv

/-- A word put into the SCR buffer takes its own bits of it. -/
theorem scrWrite_bit (x v : DWord) (k : Nat) {b : Nat} (hb : b < 64) : (scrWrite p x k v).getLsbD b =
    if 8 * p.w.bytes * k ≤ b ∧ b < 8 * p.w.bytes * k + 8 * p.w.bytes then v.getLsbD (b - 8 * p.w.bytes * k)
    else x.getLsbD b := by
  simp only [scrWrite, BitVec.getLsbD_or, BitVec.getLsbD_and, BitVec.getLsbD_not, BitVec.getLsbD_shiftLeft,
    wordMask_bit]
  by_cases hlo : 8 * p.w.bytes * k ≤ b <;>
    by_cases hhi : b < 8 * p.w.bytes * k + 8 * p.w.bytes
  · simp [hb, hlo, hhi, Nat.not_lt.mpr hlo, show b - 8 * p.w.bytes * k < 8 * p.w.bytes by omega]
  · simp [hb, hhi, Nat.not_lt.mpr hlo, show ¬ b - 8 * p.w.bytes * k < 8 * p.w.bytes by omega]
  · simp [hb, hlo, Nat.not_le.mp hlo]
  · omega

/-- A byte of the SCR buffer below the words put there is unchanged. -/
theorem fillScr_below {k a : Nat} {vs : List DWord} {x : DWord} (ha : a < 8) (hk : a < k * p.w.bytes) :
    (fillScr p .scr k vs x).extractLsb' (8 * a) 8 = x.extractLsb' (8 * a) 8 := by
  induction vs generalizing k x with
  | nil => rfl
  | cons v vs ih =>
    rw [fillScr, ih (hk.trans_le (Nat.mul_le_mul_right _ (Nat.le_succ k)))]
    apply BitVec.eq_of_getLsbD_eq
    intro i hi
    have hbelow : ¬ 8 * p.w.bytes * k ≤ 8 * a + i := by
      rw [Nat.mul_assoc, Nat.mul_comm p.w.bytes k]; omega
    rw [BitVec.getLsbD_extractLsb', BitVec.getLsbD_extractLsb', destScr, scrWrite_bit _ _ _ (by omega),
      if_neg fun hin => hbelow hin.1]

/-- Byte `j` of the `i`-th word put into the SCR buffer. -/
theorem fillScr_byte {k i j : Nat} {v : DWord} {vs : List DWord} {x : DWord} (hv : vs[i]? = some v)
    (hj : j < p.w.bytes) (ha : (k + i) * p.w.bytes + j < 8) :
    (fillScr p .scr k vs x).extractLsb' (8 * ((k + i) * p.w.bytes + j)) 8 = v.extractLsb' (8 * j) 8 := by
  induction vs generalizing k i x with
  | nil => cases hv
  | cons y vs ih =>
    cases i with
    | zero =>
      cases hv
      rw [Nat.add_zero] at ha ⊢
      rw [fillScr, fillScr_below ha (by rw [Nat.add_one_mul k]; omega), ← masked_byte hj]
      apply BitVec.eq_of_getLsbD_eq
      intro b hb
      have hplace : 8 * (k * p.w.bytes + j) + b = 8 * p.w.bytes * k + (8 * j + b) := by
        rw [Nat.mul_assoc, Nat.mul_comm p.w.bytes k]; omega
      rw [BitVec.getLsbD_extractLsb', BitVec.getLsbD_extractLsb', destScr, scrWrite_bit _ _ _ (by omega), hplace,
        if_pos (by omega), Nat.add_sub_cancel_left]
    | succ i =>
      rw [show k + (i + 1) = k + 1 + i by omega] at ha ⊢
      exact ih hv ha

end

/-- Settles O25: the run of the drain (`Draining.run`) and where it leaves the bytes (`fillMemory_byte`,
`fillScr_byte`). -/
theorem readPumpDrains : Obligations.ReadPumpDrains := by
  intro s dst n ms rest hs hp htd hunits hscript hlen hquiet hreset hroom hshown
  have hdrain : Draining .pumpCount (2 * s.env.fifo.length + 1) dst n s.env.fifo [] s :=
    ⟨hs, hp, htd, (List.append_nil _).symm, ⟨ms, rest, hscript, hlen, hquiet⟩, hreset, hroom,
      by rw [hunits]; decide, by rw [hunits]; decide, by rw [hunits]; exact hshown⟩
  obtain ⟨t, hrun, ht, hfifo, hphase⟩ := hdrain.run
  refine ⟨t, hrun, ht.cursor_eq, hfifo, ht.mem_eq, ht.scr_eq, ?client, ?scr, hphase, ht.ses_eq,
    ht.fault_eq.trans (running_fault hs)⟩
  case client =>
    rintro h rfl hm
    rw [ht.mem_eq]
    exact ⟨fun i v hv j hj => fillMemory_byte hm hv hj, fun a ha => fillMemory_outside ha⟩
  case scr =>
    rintro rfl
    rw [ht.mem_eq, ht.scr_eq]
    exact ⟨fillMemory_scr _ _ _, fun i v hv j hj ha => fillScr_byte hv hj ha⟩

/-! ## The fill (R178) -/

theorem fifo_of_takes (h : fifoTakes (nextMove s)) (hone : s.env.fifo.length ≤ 1) :
    (envStep s).env.fifo = [] ∧ (envStep s).env.residue = 0 := by
  obtain ⟨htaken, hput, hresidue, -⟩ := h
  refine ⟨?_, by rw [envStep_residue, hresidue, Nat.zero_mod]⟩
  rw [envStep_fifo, moveFifo, hput, List.append_nil, List.drop_eq_nil_iff]
  split
  · exact Nat.zero_le _
  · exact hone.trans htaken

/-- A write pump at the place `p` of its fill, with a word left to send, and at most the last one sent in the FIFO. The
next `k` moves take every word. -/
structure Filling (p : Phase) (k : Nat) (src : Word) (n : Nat) (s : State) : Prop where
  running : s.running
  phase_eq : s.ph.phase = p
  td_eq : s.wrk.td = .write src n
  cursor_lt : s.wrk.cursor < n
  fifo_le : s.env.fifo.length ≤ 1
  moves : NextMoves fifoTakes k s.env.script

/-- The word the write pump sends next. -/
def nextWord (src : Word) (s : State) : DWord := getWord src s.wrk.cursor s &&& wordMask s.cfg.w

theorem pumpMore_terms (s : State) : (pumpMore s).terms = s.terms := by
  unfold pumpMore pumpExit; split
  · split <;> rfl
  · rfl
  · split
    · rfl
    · split <;> rfl

section
variable {k n : Nat} {src : Word}

/-- The FIFO is empty at the STATUS read, and its count lets the word through. -/
theorem Filling.runs_count (h : Filling .pumpCount (k + 1) src n s) :
    ∃ c t, Runs 1 [rdTxn s.cfg .status c] s t ∧ t.wrk = s.wrk ∧ Filling .pumpMove k src n t := by
  obtain ⟨hfifo, hresidue⟩ := fifo_of_takes h.moves.head h.fifo_le
  have hcount : statusCount s.cfg.layout (readVal .status s) < 120 := by
    rw [statusCount_readVal (running_wf h.running), hfifo, hresidue, List.length_nil, Nat.mul_zero]; decide
  have hmove : pumpCount s = (readReg .status s).goto .pumpMove :=
    (pumpCounted_write (s := readReg .status s) h.td_eq _).trans (if_pos hcount)
  refine ⟨readVal .status s, (readReg .status s).goto .pumpMove,
    .single h.running (by rw [advance, h.phase_eq]; exact congrArg _ hmove), rfl, ?_⟩
  exact ⟨running_of_eq h.running, rfl, h.td_eq, h.cursor_lt, (congrArg List.length hfifo).trans_le (Nat.zero_le 1),
    h.moves.tail⟩

/-- The word is stored to DATA, and the FIFO holds it alone. -/
theorem Filling.runs_move (h : Filling .pumpMove (k + 1) src n s) :
    ∃ t, Runs 1 [.memWrite s.cfg.dataAddr s.cfg.w.bytes (nextWord src s)] s t ∧
      t.wrk = { s.wrk with cursor := s.wrk.cursor + 1 } ∧ t.env.fifo.length = 1 ∧
      t.ph.phase = if s.wrk.cursor + 1 < n then .pumpCount else pumpExitPhase s.cfg.layout s.wrk.snap := by
  have htakes := h.moves.head
  obtain ⟨hfifo, -⟩ := fifo_of_takes htakes h.fifo_le
  obtain ⟨-, -, -, hfull⟩ := htakes
  have hkept := elsewhere_pumpMore (s := wordSent src s)
  have hsent : (wordSent src s).env.fifo = [nextWord src s] := by
    simp only [wordSent, advanceCursor_env, fifoWrite_env, hfull, hfifo]; rfl
  refine ⟨pumpMore (wordSent src s), ?_, hkept.wrk_eq, by rw [hkept.env_eq, hsent]; rfl,
    pumpMore_write_phase (s := wordSent src s) h.td_eq⟩
  exact .single h.running (by rw [advance, h.phase_eq]; exact congrArg _ (pumpMove_write h.td_eq)) hkept.trace_eq
    (congrArg Env.script hkept.env_eq) (pumpMore_terms _) hkept.surroundings_eq

/-- One word: the STATUS read and the DATA write. -/
theorem Filling.runs_word (h : Filling .pumpCount (k + 2) src n s) :
    ∃ c t, Runs 2 [.memWrite s.cfg.dataAddr s.cfg.w.bytes (nextWord src s), rdTxn s.cfg .status c] s t ∧
      t.wrk = { s.wrk with cursor := s.wrk.cursor + 1 } ∧ t.env.fifo.length = 1 ∧
      t.ph.phase = if s.wrk.cursor + 1 < n then .pumpCount else pumpExitPhase s.cfg.layout s.wrk.snap := by
  obtain ⟨c, t, ht, hwrkt, hft⟩ := h.runs_count
  obtain ⟨u, hu, hwrk, hfifo, hphase⟩ := hft.runs_move
  obtain ⟨-, hmem, -⟩ := surroundings_eq_iff.mp ht.surroundings_eq
  have hword : nextWord src t = nextWord src s := by
    simp only [nextWord, getWord, ht.cfg_eq, hwrkt, hmem]
  rw [ht.cfg_eq, hword] at hu
  rw [hwrkt] at hwrk
  rw [hwrkt, ht.cfg_eq] at hphase
  exact ⟨c, u, ht.trans hu, hwrk, hfifo, hphase⟩

end

theorem dataWrites_append (p : Params) (xs ys : List Txn) :
    dataWrites p (xs ++ ys) = dataWrites p xs ++ dataWrites p ys := by
  induction xs with
  | nil => rfl
  | cons x xs ih =>
    cases x with
    | memWrite a n v =>
      simp only [List.cons_append, dataWrites, ih]
      split <;> rfl
    | memRead | now | sleep => exact ih

/-- One word's transactions store that word. -/
theorem dataWrites_word (p : Params) (c : Word) (v : DWord) :
    dataWrites p [.memWrite p.dataAddr p.w.bytes v, rdTxn p .status c] = [v] := by
  simp [dataWrites, rdTxn]

/-- The whole fill: the words from the cursor on, two transactions each. -/
theorem Filling.runs {src : Word} {n m : Nat} (h : Filling .pumpCount (2 * (m + 1)) src n s)
    (hn : s.wrk.cursor + (m + 1) = n) : ∃ xs t, Runs (2 * (m + 1)) xs s t ∧ xs.length = 2 * (m + 1) ∧
      dataWrites s.cfg xs = (bufferWords s.cfg s.mem src s.wrk.cursor (m + 1)).reverse ∧ t.wrk.cursor = n ∧
      t.ph.phase = pumpExitPhase s.cfg.layout s.wrk.snap := by
  induction m generalizing s with
  | zero =>
    obtain ⟨c, t, ht, hwrk, -, hphase⟩ := h.runs_word
    rw [if_neg (by omega)] at hphase
    exact ⟨_, t, ht, rfl, dataWrites_word _ _ _, by rw [hwrk]; exact hn, hphase⟩
  | succ m ih =>
    rw [show 2 * (m + 1 + 1) = 2 + 2 * (m + 1) by omega] at h ⊢
    obtain ⟨c, t, ht, hwrk, hfifo, hphase⟩ := Filling.runs_word (k := 2 * (m + 1)) (by rwa [Nat.add_comm])
    rw [if_pos (by omega)] at hphase
    have hcursor : t.wrk.cursor = s.wrk.cursor + 1 := by rw [hwrk]
    have hft : Filling .pumpCount (2 * (m + 1)) src n t :=
      ⟨ht.running h.running (by simp [hphase]), hphase, by rw [hwrk]; exact h.td_eq, by omega, hfifo.le,
        by rw [ht.script_eq]; exact h.moves.drop⟩
    obtain ⟨xs, u, hu, hlen, hsent, hend, hexit⟩ := ih hft (by omega)
    obtain ⟨-, hmem, -⟩ := surroundings_eq_iff.mp ht.surroundings_eq
    refine ⟨_, u, ht.trans hu, ?_, ?_, hend, by rw [hexit, ht.cfg_eq, hwrk]⟩
    · rw [List.length_append, hlen, Nat.add_comm]; rfl
    · rw [ht.cfg_eq, hmem, hcursor] at hsent
      rw [dataWrites_append, hsent, dataWrites_word]
      exact List.reverse_cons.symm

/-! ## The words sent (20 R63) -/

section
variable (p : Params) (m : Memory) (src : Word)

theorem bufferWords_length (k n : Nat) : (bufferWords p m src k n).length = n := by
  induction n generalizing k with
  | zero => rfl
  | succ n ih => rw [bufferWords, List.length_cons, ih]

theorem bufferWords_getElem? {i n : Nat} (k : Nat) (hi : i < n) : (bufferWords p m src k n)[i]? =
    some (m.readLE (bufferWord p src (k + i)) p.w.bytes &&& wordMask p.w) := by
  induction n generalizing k i with
  | zero => omega
  | succ n ih =>
    cases i with
    | zero => rfl
    | succ i =>
      rw [bufferWords, List.getElem?_cons_succ, ih (k + 1) (by omega), show k + (i + 1) = k + 1 + i by omega]

/-- The `i`-th word of the source in the order of the trace, newest first. -/
theorem sentWords_getElem? {i n : Nat} (k : Nat) (hi : i < n) (rest : List DWord) :
    ((bufferWords p m src k n).reverse ++ rest)[n - 1 - i]? =
      some (m.readLE (bufferWord p src (k + i)) p.w.bytes &&& wordMask p.w) := by
  have hlen := bufferWords_length p m src k n
  rw [List.getElem?_append_left (by rw [List.length_reverse, hlen]; omega),
    List.getElem?_reverse (by rw [hlen]; omega), hlen, show n - 1 - (n - 1 - i) = i by omega,
    bufferWords_getElem? p m src k hi]

end

/-- Settles O27: the run of the fill (`Filling.runs`), and the bytes of the words it stored (`sentWord_byte`). -/
theorem writePumpFills : Obligations.WritePumpFills := by
  intro s src n ms rest hs hp htd hlt hfifo hscript hlen htakes
  obtain ⟨m, hm⟩ : ∃ m, n - s.wrk.cursor = m + 1 := ⟨n - s.wrk.cursor - 1, by omega⟩
  rw [hm] at hlen ⊢
  have hfill : Filling .pumpCount (2 * (m + 1)) src n s :=
    ⟨hs, hp, htd, hlt, by rw [hfifo]; exact Nat.zero_le 1, ⟨ms, rest, hscript, hlen, htakes⟩⟩
  obtain ⟨xs, t, ht, hcount, hsent, hcursor, hphase⟩ := hfill.runs (by omega)
  obtain ⟨hses, hmem, -, -, hfault, -⟩ := surroundings_eq_iff.mp ht.surroundings_eq
  have hwrites : dataWrites s.cfg t.trace =
      (bufferWords s.cfg s.mem src s.wrk.cursor (m + 1)).reverse ++ dataWrites s.cfg s.trace := by
    rw [ht.trace_eq, dataWrites_append, hsent]
  refine ⟨t, ht.run_eq, hcursor, hmem, hwrites, fun i hi => ?_, ?_, hphase, hses, hfault.trans (running_fault hs)⟩
  · rw [hwrites]
    exact ⟨_, sentWords_getElem? _ _ _ _ hi _, masked_lt _ _, fun j hj => sentWord_byte _ _ _ _ hj⟩
  · rw [ht.trace_eq, List.length_append, hcount, Nat.add_comm]

end Sys2Proof.Machine
end

section
/-! SUPPORT. Proofs of the statements of 43_response_decoder.md: HAS_ERROR as the seven error flags (R200), and the CID
put together from the response words and taken apart (R204, R205). -/

namespace Sys2Proof

open Machine

/-! ## HAS_ERROR (R200) -/

/-- A one-bit field is 1 exactly when its mask selects something of the word. -/
theorem getField_one_iff_and_fieldMask_ne_zero (v : Word) (lo : Nat) :
    getField v lo 1 = 1 ↔ v &&& fieldMask lo 1 ≠ 0 := by
  rw [← putField_getField]
  obtain hclear | hset := BitVec.eq_zero_or_eq_one (getField v lo 1)
  · simp [hclear, putField]
  · have hlo : lo < 32 := BitVec.lt_of_getLsbD ((getField_one v lo).mp hset)
    refine iff_of_true hset fun hzero => ?_
    have hback := getField_putField (Nat.succ_le_of_lt hlo) (getField v lo 1)
    rw [hzero, getField_zero, hset] at hback
    exact absurd hback (by decide)

/-- A mask put together from two selects something exactly when one of the two does. -/
theorem and_or_ne_zero_iff (v m n : Word) : v &&& (m ||| n) ≠ 0 ↔ v &&& m ≠ 0 ∨ v &&& n ≠ 0 := by
  rw [BitVec.and_or_distrib_left, ← not_and_or]
  exact BitVec.or_eq_zero_iff.not

/-- Settles O8: the mask selects something exactly when one of its seven one-bit masks does, wherever the layout puts
the flags. -/
theorem hasErrorIsSevenFlags : Obligations.HasErrorIsSevenFlags := by
  intro l v _
  refine ⟨?_, hasError_iff l v⟩
  simp only [hasError_iff, errMask, decRintsts, and_or_ne_zero_iff, getField_one_iff_and_fieldMask_ne_zero, or_assoc]

/-! ## The CID (R204, R205) -/

theorem assembleCid_resp3 {p : Params} (h : p.cidMsw = .resp3) (r0 r1 r2 r3 : Word) :
    assembleCid p r0 r1 r2 r3 = r3 ++ r2 ++ r1 ++ r0 := by
  rw [assembleCid, h]

theorem assembleCid_resp0 {p : Params} (h : p.cidMsw = .resp0) (r0 r1 r2 r3 : Word) :
    assembleCid p r0 r1 r2 r3 = r0 ++ r1 ++ r2 ++ r3 := by
  rw [assembleCid, h]

/-- Settles O9: each field is cut out at the number of bits that stand below it, so the parts below it are skipped one
by one (`extractLsb'_append_eq_of_le`) and it is then the lowest part left. -/
theorem cidFieldsWhereTheyStand : Obligations.CidFieldsWhereTheyStand := by
  refine ⟨fun mid o1 o2 p1 p2 p3 p4 p5 maj min ser skip yy mm crc => ?_,
    fun _ r0 r1 r2 r3 h => assembleCid_resp3 h r0 r1 r2 r3, fun _ r0 r1 r2 r3 h => assembleCid_resp0 h r0 r1 r2 r3⟩
  simp (disch := omega) only [decodeCid, yearBase, BitVec.extractLsb'_append_eq_of_le, Nat.reduceSub,
    BitVec.extractLsb'_append_eq_right, BitVec.extractLsb'_eq_self]

end Sys2Proof
end

section
/-! SUPPORT. Proofs of the statements of 44_init_state_machine.md over every step: the sequence of the protocol states
(R220, R235) and the bound on the attempts of OcrPoll (R228). -/

namespace Sys2Proof.Machine

variable {s t u : State}

/-! ## Steps that stay in their protocol state -/

/-- The protocol state and the session registers of `t` are those of `s`, and no delay of OcrPoll begins. -/
structure Stays (t s : State) : Prop where
  ps_eq : t.ph.ps = s.ph.ps
  ses_eq : t.ses = s.ses
  sleeping : t.ph.phase = .sleep → s.ph.phase = .sleep

theorem Stays.refl (s : State) : Stays s s := ⟨rfl, rfl, id⟩

/-- Transactions and working registers do not matter. -/
theorem Stays.congr (h : Stays t u) (hph : u.ph = s.ph := by rfl) (hses : u.ses = s.ses := by rfl) : Stays t s := by
  obtain ⟨h1, h2, h3⟩ := h
  exact ⟨by rwa [← hph], h2.trans hses, by rwa [← hph]⟩

theorem stays_goto {p : Phase} (hp : p ≠ .sleep := by nofun) : Stays (s.goto p) s :=
  ⟨rfl, rfl, fun h => absurd h hp⟩

theorem stays_gotoStep {k : Fin 9} {p : Phase} (hp : p ≠ .sleep := by nofun) : Stays (s.gotoStep k p) s :=
  ⟨rfl, rfl, fun h => absurd h hp⟩

theorem stays_finish (r : OpResult) : Stays (finish r s) s := by
  refine ⟨rfl, rfl, fun h => ?_⟩
  rcases finish_phase r s with hp | hp <;> cases hp.symm.trans h

theorem stays_startXchg {c : CardCmd} {a : Word} {d : Descriptor} {x : Ctx} : Stays (startXchg c a d x s) s :=
  ⟨rfl, rfl, nofun⟩

theorem stays_complete (c : Completion) : Stays (complete c s) s := ⟨rfl, rfl, nofun⟩

theorem stays_raise (f : Fault) : Stays (raise f s) s := ⟨rfl, rfl, id⟩

/-! ## The transfer engine -/

theorem stays_enterStep5 : Stays (enterStep5 s) s := by
  unfold enterStep5; split <;> exact stays_gotoStep

theorem stays_enterStep4 : Stays (enterStep4 s) s := by
  unfold enterStep4; split
  · exact stays_gotoStep
  · exact stays_enterStep5

theorem stays_waitMet (w : WaitFor) : Stays (waitMet w s) s := by
  cases w with
  | ready =>
    simp only [waitMet]; split
    · exact stays_goto
    · exact stays_gotoStep
  | notBusy => exact stays_gotoStep
  | accepted => exact stays_enterStep4
  | done => exact stays_enterStep5
  | pulse | reset f => exact stays_finish _

theorem stays_waitStep (w : WaitFor) (stage : WaitStage) : Stays (waitStep w stage s) s := by
  cases stage with
  | start => exact .congr stays_goto
  | poll =>
    simp only [waitStep, waitPoll]; split
    · exact (stays_waitMet w).congr
    · exact .congr stays_goto
  | check =>
    simp only [waitStep, waitCheck]; split
    · rw [waitExpired_eq]; exact (stays_finish _).congr
    · exact .congr stays_goto

theorem stays_pumpExit : Stays (pumpExit s) s := by
  unfold pumpExit; split
  · exact stays_gotoStep
  · exact stays_goto

theorem stays_pumpMore : Stays (pumpMore s) s := by
  unfold pumpMore; split
  · exact stays_pumpExit
  · exact stays_goto
  · split
    · exact stays_goto
    · exact stays_pumpExit

theorem stays_pumpBegin (h : pumpBegin s = .next t) : Stays t s := by
  unfold pumpBegin at h
  split at h <;> cases h
  exact .congr stays_goto

theorem stays_pumpSnapshot : Stays (pumpSnapshot s) s := by
  unfold pumpSnapshot; split
  · exact stays_pumpMore.congr
  · exact stays_pumpExit.congr

theorem stays_pumpCounted (n : Nat) : Stays (pumpCounted n s) s := by
  unfold pumpCounted; split
  · exact stays_pumpExit
  · split
    · split
      · exact (stays_raise _).congr
      · exact stays_goto
    · exact stays_pumpExit
  · split
    · exact stays_goto
    · exact stays_pumpExit

theorem stays_pumpMove : Stays (pumpMove s) s := by
  unfold pumpMove; split
  · exact stays_pumpExit
  · exact stays_pumpMore.congr
  · exact stays_pumpMore.congr

theorem stays_pumpDeadline : Stays (pumpDeadline s) s := by
  unfold pumpDeadline; split
  · exact (stays_finish _).congr
  · exact .congr stays_goto

theorem stays_startData : Stays (startData s) s := by
  cases hc : s.ph.ctx with simp only [startData, hc]
  | scr | readBlock | writeBlock | readRow | writeRow | scrRow => exact stays_startXchg
  | bare | pulseOff | pulseOn | fifoReset | dmaReset | goIdle | voltage | ocrApp | ocrCond | identify
  | address | csd | select | scrApp => exact stays_goto

/-! ## What a step does to the sequence (R220) -/

/-- INIT goes from `s` to another protocol state: one that follows in the sequence where the sequencing registers agree,
and OcrPoll with its first attempt. -/
structure Enters (t s : State) : Prop where
  edge : SeqInv s → s.ph.ps.edge t.ph.ps = true
  first_attempt : t.ph.ps = .ocrPoll → t.ses.ocrAttempts = 1
  awake : t.ph.phase ≠ .sleep

/-- What a step does to the protocol state and to the attempts of OcrPoll. -/
inductive SequenceEffect (s t : State) : Prop
  | stays (h : Stays t s)
  | enters (h : Enters t s)
  /-- OcrPoll's attempt failed, and the delay before the next one begins (R228). -/
  | delays (hps : t.ph.ps = s.ph.ps) (hses : t.ses = s.ses) (hlt : s.ses.ocrAttempts < s.cfg.ocrRetryMax)
  /-- The delay is over, and the next attempt begins (R228). -/
  | attempts (hp : s.ph.phase = .sleep) (hps : t.ph.ps = s.ph.ps)
    (hses : t.ses.ocrAttempts = s.ses.ocrAttempts + 1) (hawake : t.ph.phase ≠ .sleep)
  | reset (hr : s.resetLine = true) (h : t = blockReset s)

/-- The edges out of the protocol state that what is running belongs to. -/
theorem SeqInv.edge {c : Ctx} {r : PState} (h : SeqInv s) (hc : s.ph.ctx = c) (q : PState)
    (hq : stateFits s.ph.ps c = (s.ph.ps == q) := by rfl) (he : q.edge r = true := by rfl) :
    s.ph.ps.edge r = true := by
  have hfits := h.state_fits
  rw [hc, hq] at hfits
  rwa [beq_iff_eq.mp hfits]

/-- FifoReset becomes BusWidthInit at the write of CTYPE only (R223, R224). -/
theorem SeqInv.ps_fifoReset (h : SeqInv s) (hc : s.ph.ctx = .fifoReset) (hp : s.ph.phase ≠ .busWidth) :
    s.ph.ps = .fifoReset := by
  have hfits := h.state_fits
  simp only [hc, stateFits, Bool.or_eq_true, beq_iff_eq] at hfits
  exact hfits.resolve_right fun hq => hp (h.width_state.mp hq)

/-- INIT goes on in the next state with an exchange of it. -/
theorem enters_startXchg {c : CardCmd} {a : Word} {d : Descriptor} {x : Ctx}
    (hedge : SeqInv s → s.ph.ps.edge u.ph.ps = true) (hq : u.ph.ps ≠ .ocrPoll := by nofun) :
    Enters (startXchg c a d x u) s := ⟨hedge, fun h => absurd h hq, nofun⟩

theorem enters_failInit (hedge : SeqInv s → s.ph.ps.edge .failed = true) : Enters (failInit s) s :=
  ⟨hedge, nofun, nofun⟩

theorem enters_becomeReady (hedge : SeqInv s → s.ph.ps.edge .ready = true) : Enters (becomeReady s) s :=
  ⟨hedge, nofun, nofun⟩

/-- OcrPoll's attempt failed: the last one ends INIT, any other is followed by the delay (R228). -/
theorem ocrRetry_sequence (hedge : SeqInv s → s.ph.ps.edge .failed = true) : SequenceEffect s (ocrRetry s) := by
  unfold ocrRetry; split
  case isTrue => exact .enters (enters_failInit hedge)
  case isFalse hlt => exact .delays rfl rfl (Nat.lt_of_not_le hlt)

/-- What INIT and the block operations do when an exchange, pulse or reset request has returned: INIT enters the next
state of the sequence or Failed, or stays in the state it is in. -/
theorem resume_sequence (hp : s.ph.phase = .returned) : SequenceEffect s (resume s) := by
  cases hc : s.ph.ctx with simp only [resume, hc]
  | bare | readRow | writeRow | scrRow => exact .stays stays_goto
  | pulseOff =>
    unfold afterPulseOff; split
    · exact .stays stays_goto
    · exact .enters (enters_failInit (·.edge hc .clockReset))
  | pulseOn =>
    unfold afterPulseOn; split
    · exact .enters ⟨(·.edge hc .clockReset), nofun, nofun⟩
    · exact .enters (enters_failInit (·.edge hc .clockReset))
  | fifoReset =>
    have hq : SeqInv s → s.ph.ps = .fifoReset := (·.ps_fifoReset hc (by simp [hp]))
    unfold afterFifoReset; split
    · exact .enters ⟨fun h => by rw [hq h]; rfl, nofun, nofun⟩
    · exact .enters (enters_failInit fun h => by rw [hq h]; rfl)
  | dmaReset =>
    unfold afterDmaReset; split
    · exact .enters (enters_startXchg (·.edge hc .dmaReset))
    · exact .enters (enters_failInit (·.edge hc .dmaReset))
  | goIdle | identify | address | csd | select =>
    simp only [afterGoIdle, afterIdentify, afterAddress, afterCsd, afterSelect]
    split
    · exact .enters (enters_startXchg (·.edge hc _))
    all_goals exact .enters (enters_failInit (·.edge hc _))
  | voltage => exact .enters ⟨(·.edge hc .voltageCheck), fun _ => rfl, nofun⟩
  | ocrApp =>
    unfold afterOcrApp; split
    · exact .stays stays_startXchg
    all_goals exact ocrRetry_sequence (·.edge hc .ocrPoll)
  | ocrCond =>
    unfold afterOcrCond; split
    · split
      · exact .enters (enters_startXchg (·.edge hc .ocrPoll))
      · exact ocrRetry_sequence (·.edge hc .ocrPoll)
    all_goals exact ocrRetry_sequence (·.edge hc .ocrPoll)
  | scrApp =>
    unfold afterScrApp; split
    · exact .stays ⟨rfl, rfl, nofun⟩
    all_goals exact .enters (enters_becomeReady (·.edge hc .busWidthQuery))
  | scr => exact .enters (enters_becomeReady (·.edge hc .busWidthQuery))
  | readBlock | writeBlock =>
    simp only [afterReadBlock, afterWriteBlock]
    split <;> exact .stays (stays_complete _).congr

/-- One step of an operation in progress. -/
theorem advance_sequence (ha : advance s = .next t) : SequenceEffect s t := by
  unfold advance at ha
  cases hp : s.ph.phase with rw [hp] at ha
  | pumpStart => exact .stays (stays_pumpBegin ha)
  | idle => cases ha; exact .stays (.refl s)
  | wait w stage => cases ha; exact .stays (stays_waitStep w stage)
  | pumpSnap => cases ha; exact .stays stays_pumpSnapshot
  | pumpCount => cases ha; exact .stays (stays_pumpCounted (s := readReg .status s) _).congr
  | pumpMove => cases ha; exact .stays stays_pumpMove
  | pumpTime => cases ha; exact .stays stays_pumpDeadline
  | classify => cases ha; exact .stays (stays_finish _)
  | byteCount => cases ha; exact .stays stays_startData.congr
  | writeArg | ackRead | readResp0 | readResp1 | readResp2 | pulseWrite | resetRead f | resetWrite f | clockDivide
  | blockSize => cases ha; exact .stays (.congr stays_goto)
  | writeCmd | ackWrite | readResp3 => cases ha; exact .stays (.congr stays_gotoStep)
  | clockOff | clockOn => cases ha; exact .stays ⟨rfl, rfl, nofun⟩
  | busWidth =>
    cases ha
    exact .enters ⟨fun h => by rw [h.width_state.mpr hp]; rfl, nofun, nofun⟩
  | sleep => cases ha; exact .attempts hp rfl rfl nofun
  | returned => cases ha; exact resume_sequence hp

/-- The acceptance of an operation: INIT leaves PowerOn, and nothing else changes the protocol state (R221). -/
theorem exec_sequence {i : Instr} (he : exec i s = .next t) : Stays t s ∨ Enters t s := by
  cases i with obtain ⟨-, rfl⟩ := accept_next he
  | goIdleState | allSendCid | sendRelativeAddr | selectCard | sendIfCond | sendCsd | sdSendOpCond
  | appCmd arg => exact .inl stays_startXchg
  | commitClk | sendScr => exact .inl ⟨rfl, rfl, nofun⟩
  | readSingleBlock index buf | writeSingleBlock index buf =>
    unfold beginBlockRow; split
    · exact .inl (stays_raise _)
    · exact .inl ⟨rfl, rfl, nofun⟩
  | init =>
    unfold beginInit; split
    case isTrue hq => exact .inr ⟨fun _ => by rw [show s.ph.ps = .powerOn from hq]; rfl, nofun, nofun⟩
    case isFalse => exact .inl ⟨rfl, rfl, id⟩
  | readBlock index buf | writeBlock index buf =>
    simp only [beginReadBlock, beginWriteBlock]; split
    · exact .inl ⟨rfl, rfl, id⟩
    · split <;> exact .inl ⟨rfl, rfl, nofun⟩

/-- Everything a step can do to the protocol state and to the attempts of OcrPoll. -/
theorem step_sequence (h : step s = .next t) : SequenceEffect s t := by
  obtain ⟨hr, ht⟩ | ⟨-, -, -, rfl⟩ | ⟨-, -, o, i, -, -, he⟩ | ⟨-, -, o, f, -, -, rfl⟩ | ⟨-, -, -, ha⟩ :=
    step_next_cases h
  · exact .reset hr ht
  · exact .stays (.refl _)
  · rcases exec_sequence (s := takeRequest s) he with h | h
    · exact .stays h.congr
    · exact .enters ⟨fun hs => h.edge hs.congr, h.first_attempt, h.awake⟩
  · exact .stays (stays_raise (s := takeRequest s) f).congr
  · exact advance_sequence ha

/-- Settles O42: a step that changes the protocol state enters a successor of it (`Enters.edge`), or is the external
reset. -/
theorem statesAdvanceInOrder : Obligations.StatesAdvanceInOrder := by
  intro s t hs h
  cases step_sequence h with
  | stays h => exact .inl h.ps_eq
  | delays hps | attempts _ hps => exact .inl hps
  | enters h => exact .inr (.inl (h.edge hs))
  | reset hr ht => exact .inr (.inr ⟨hr, ht ▸ rfl⟩)

/-- An allowed parameter set lets OcrPoll make one attempt (00 R7). -/
theorem one_le_ocrRetryMax {p : Params} (h : p.wf = true) : 1 ≤ p.ocrRetryMax := by
  simp only [Params.wf, Params.retryOk, Bool.and_eq_true, decide_eq_true_eq] at h
  tauto

/-- Settles O48: OcrPoll is entered with its first attempt, the delay begins below the bound, and one attempt follows
it. -/
theorem ocrAttemptsBounded : Obligations.OcrAttemptsBounded := by
  intro s t hs h
  have hcfg : t.cfg = s.cfg := step_cfg h
  cases step_sequence h with
  | stays h => exact ⟨by rw [hcfg, h.ps_eq, h.ses_eq]; exact hs.attempts_le,
      fun hp => by rw [hcfg, h.ses_eq]; exact hs.sleep_lt (h.sleeping hp)⟩
  | enters he =>
    refine ⟨fun hq => ?_, fun hp => absurd hp he.awake⟩
    rw [he.first_attempt hq, hcfg]
    rcases step_inService h with ⟨-, rfl⟩ | ⟨-, hw, -⟩
    · cases hq
    · exact one_le_ocrRetryMax hw
  | delays hps hses hlt => exact ⟨fun _ => by rw [hcfg, hses]; exact hlt.le, fun _ => by rw [hcfg, hses]; exact hlt⟩
  | attempts hp hps hses hawake =>
    exact ⟨fun _ => by rw [hcfg, hses]; exact hs.sleep_lt hp, fun ht => absurd ht hawake⟩
  | reset hr ht => subst ht; exact ⟨nofun, nofun⟩

end Sys2Proof.Machine
end

section
/-! SUPPORT. Proofs of the statements of 44_init_state_machine.md about single states of INIT: what follows the exchange
of a state (R227 to R233), the failure transition (R235), and the run of ClockReset (R222). -/

namespace Sys2Proof.Machine

variable {s t : State} {o : XOutcome}

/-! ## A mandatory state that failed (R235) -/

/-- The pulse or reset request of a mandatory state timed out. -/
theorem resume_timedOut (hc : s.ph.ctx = .pulseOff ∨ s.ph.ctx = .pulseOn ∨ s.ph.ctx = .fifoReset ∨
    s.ph.ctx = .dmaReset) (hr : s.result = some .timedOut) : resume s = failInit s := by
  have hdone : ¬resultDone s.result = true := by simp [hr, resultDone]
  rcases hc with hc | hc | hc | hc <;> rw [resume, hc] <;> exact if_neg hdone

/-- The exchange of a mandatory state was not `Ok`. -/
theorem resume_notOk (hc : s.ph.ctx = .goIdle ∨ s.ph.ctx = .identify ∨ s.ph.ctx = .address ∨ s.ph.ctx = .csd ∨
    s.ph.ctx = .select) (hr : s.result = some (.xchg o)) (ho : ∀ r0 r1 r2 r3, o ≠ .ok r0 r1 r2 r3) :
    resume s = failInit s := by
  cases o with
  | ok r0 r1 r2 r3 => exact absurd rfl (ho r0 r1 r2 r3)
  | failed | timedOut =>
    rcases hc with hc | hc | hc | hc | hc <;>
      simp only [resume, hc, afterGoIdle, afterIdentify, afterAddress, afterCsd, afterSelect, hr, resultOutcome]

/-! ## OcrPoll (R228) -/

/-- An attempt whose APP_CMD was not `Ok` has failed. -/
theorem resume_ocrApp_notOk (hc : s.ph.ctx = .ocrApp) (hr : s.result = some (.xchg o))
    (ho : ∀ r0 r1 r2 r3, o ≠ .ok r0 r1 r2 r3) : resume s = ocrRetry s := by
  cases o with
  | ok r0 r1 r2 r3 => exact absurd rfl (ho r0 r1 r2 r3)
  | failed | timedOut => simp only [resume, hc, afterOcrApp, hr, resultOutcome]

/-- An attempt whose SD_SEND_OP_COND was not `Ok` with a ready response has failed. -/
theorem resume_ocrCond_notReady (hc : s.ph.ctx = .ocrCond) (hr : s.result = some (.xchg o))
    (ho : ∀ r0 r1 r2 r3, o = .ok r0 r1 r2 r3 → r0.getLsbD s.cfg.ocrReadyBit = false) : resume s = ocrRetry s := by
  cases o with
  | ok r0 r1 r2 r3 =>
    simp [resume, hc, afterOcrCond, hr, resultOutcome, decodeOcr, ho r0 r1 r2 r3 rfl]
  | failed | timedOut => simp only [resume, hc, afterOcrCond, hr, resultOutcome]

theorem ocrRetry_last (h : s.cfg.ocrRetryMax ≤ s.ses.ocrAttempts) : ocrRetry s = failInit s := if_pos h

theorem ocrRetry_again (h : s.ses.ocrAttempts < s.cfg.ocrRetryMax) : ocrRetry s = s.goto .sleep :=
  if_neg (Nat.not_le.mpr h)

/-- After a failed attempt that was not the last one, the delay and the next attempt. -/
theorem run_ocrRetry (hs : s.running) (hp : s.ph.phase = .returned) (hr : resume s = ocrRetry s)
    (hlt : s.ses.ocrAttempts < s.cfg.ocrRetryMax) :
    Host.Core.run core 2 s = .next (ocrSleep (s.goto .sleep)) := by
  have hretry : step s = .next (s.goto .sleep) := by rw [step_returned hs hp, hr, ocrRetry_again hlt]
  have hsleep : step (s.goto .sleep) = .next (ocrSleep (s.goto .sleep)) := step_advance (running_of_eq hs) rfl
  rw [run_succ hretry, run_succ hsleep, run_zero]

/-! ## The states whose failure INIT survives (R227, R233) -/

theorem resume_voltage (hc : s.ph.ctx = .voltage) : resume s = afterVoltage s := by rw [resume, hc]

/-- BusWidthQuery ends with SEND_SCR, whatever it answered, or with an APP_CMD that was not `Ok`. -/
theorem resume_busWidthQuery (hr : s.result = some (.xchg o))
    (h : s.ph.ctx = .scr ∨ (s.ph.ctx = .scrApp ∧ ∀ r0 r1 r2 r3, o ≠ .ok r0 r1 r2 r3)) :
    resume s = becomeReady s := by
  obtain hc | ⟨hc, ho⟩ := h
  · rw [resume, hc, afterScr]
  · cases o with
    | ok r0 r1 r2 r3 => exact absurd rfl (ho r0 r1 r2 r3)
    | failed | timedOut => simp only [resume, hc, afterScrApp, hr, resultOutcome]

/-- The echoed pattern is looked for in an `Ok` answer only (43 R202). -/
theorem decodeIfCond_iff : decodeIfCond o = true ↔
    ∃ r0 r1 r2 r3, o = .ok r0 r1 r2 r3 ∧ r0.extractLsb' 0 12 = 0x1AA := by
  cases o <;> simp [decodeIfCond]

/-- Settles O38: what is resumed is `failInit` in a mandatory state (`resume_timedOut`, `resume_notOk`, the last
`ocrRetry`), and OcrPoll or Ready follows the two others. -/
theorem mandatoryFailureAbortsInit : Obligations.MandatoryFailureAbortsInit := by
  refine ⟨fun s hs hp h => (step_returned hs hp).trans (congrArg _ ?mandatory),
    fun s o hs hp hr ho hc => ⟨resume s, step_returned hs hp, ?bestEffort⟩⟩
  case mandatory =>
    obtain ⟨hc, hr⟩ | ⟨hc, o, hr, ho⟩ | ⟨hc, hmax, o, hr, ho⟩ | ⟨hc, hmax, o, hr, ho⟩ := h
    · exact resume_timedOut hc hr
    · exact resume_notOk hc hr ho
    · exact (resume_ocrApp_notOk hc hr ho).trans (ocrRetry_last hmax)
    · exact (resume_ocrCond_notReady hc hr ho).trans (ocrRetry_last hmax)
  case bestEffort =>
    obtain hc | hc | hc := hc
    · rw [resume_voltage hc]; exact ⟨nofun, .inl rfl⟩
    · rw [resume_busWidthQuery hr (.inr ⟨hc, ho⟩)]; exact ⟨nofun, .inr rfl⟩
    · rw [resume_busWidthQuery hr (.inl hc)]; exact ⟨nofun, .inr rfl⟩

/-- Settles O39: OcrPoll's first attempt, `becomeReady`, or PROGRAM_TXN is what is resumed. -/
theorem bestEffortStatesContinue : Obligations.BestEffortStatesContinue := by
  refine fun s o hs hp hr => ⟨fun hc => ⟨resume s, step_returned hs hp, ?voltage⟩,
    fun h => ⟨resume s, step_returned hs hp, ?ready⟩, fun hc ho => ⟨resume s, step_returned hs hp, ?query⟩⟩
  case voltage =>
    rw [resume_voltage hc]
    refine ⟨rfl, rfl, rfl, rfl, rfl, rfl, rfl, rfl, rfl, ?_⟩
    have hver : (afterVoltage s).ses.ver = decodeIfCond (resultOutcome s.result) := rfl
    rw [hver, hr]
    exact decodeIfCond_iff
  case ready =>
    rw [resume_busWidthQuery hr h]
    exact ⟨rfl, rfl, rfl, rfl, rfl, rfl⟩
  case query =>
    obtain ⟨r0, r1, r2, r3, rfl⟩ := ho
    have hquery : resume s = startTxn .scr s := by simp only [resume, hc, afterScrApp, hr, resultOutcome]
    rw [hquery]
    exact ⟨rfl, rfl, rfl, rfl⟩

/-! ## A state whose exchange was `Ok` (R228 to R233) -/

section
variable {r0 r1 r2 r3 : Word} (hs : s.running) (hp : s.ph.phase = .returned)
  (hr : s.result = some (.xchg (.ok r0 r1 r2 r3)))
include hs hp hr

theorem step_ocrAppOk (hc : s.ph.ctx = .ocrApp) :
    step s = .next (startXchg .sdSendOpCond s.cfg.ocrArg .none .ocrCond s) := by
  rw [step_returned hs hp, resume, hc]
  simp only [afterOcrApp, hr, resultOutcome, issueSdSendOpCond_eq]

theorem step_ocrCondReady (hc : s.ph.ctx = .ocrCond) (hready : r0.getLsbD s.cfg.ocrReadyBit = true) :
    step s = .next (startXchg .allSendCid 0 .none .identify
      { s.enter .identify with ses := { s.ses with hcs := r0.getLsbD s.cfg.ocrCcsBit } }) := by
  rw [step_returned hs hp, resume, hc]
  simp only [afterOcrCond, hr, resultOutcome, decodeOcr, hready, if_true, issueAllSendCid_eq]

theorem step_identifyOk (hc : s.ph.ctx = .identify) :
    step s = .next (startXchg .sendRelativeAddr 0 .none .address
      { s.enter .addressAssign with ses := { s.ses with cid := assembleCid s.cfg r0 r1 r2 r3 } }) := by
  rw [step_returned hs hp, resume, hc]
  simp only [afterIdentify, hr, resultOutcome, issueSendRelativeAddr_eq]

theorem step_addressOk (hc : s.ph.ctx = .address) :
    step s = .next (startXchg .sendCsd (rcaArg (r0.extractLsb' 16 16)) .none .csd
      { s.enter .readCsd with
        ses := { s.ses with rca := r0.extractLsb' 16 16, cardStatus := r0.extractLsb' 0 16 } }) := by
  rw [step_returned hs hp, resume, hc]
  simp only [afterAddress, hr, resultOutcome, decodeRca, issueSendCsd_eq]

theorem step_csdOk (hc : s.ph.ctx = .csd) :
    step s = .next (startXchg .selectCard (rcaArg s.ses.rca) .none .select (s.enter .select)) := by
  rw [step_returned hs hp, resume, hc]
  simp only [afterCsd, hr, resultOutcome, issueSelectCard_eq, enter_ses]

theorem step_selectOk (hc : s.ph.ctx = .select) :
    step s = .next (startXchg .appCmd (rcaArg s.ses.rca) .none .scrApp (s.enter .busWidthQuery)) := by
  rw [step_returned hs hp, resume, hc]
  simp only [afterSelect, hr, resultOutcome, issueAppCmd_eq]

end

/-- Settles O40: the delay and the next attempt by `run_ocrRetry`, the two `Ok` answers by `step_ocrAppOk` and
`step_ocrCondReady`. -/
theorem ocrPollRetries : Obligations.OcrPollRetries := by
  refine ⟨fun s o hs hp hr hlt h => ?retry, fun s r0 r1 r2 r3 hs hp hr =>
    ⟨fun hc => ⟨_, step_ocrAppOk hs hp hr hc, rfl, rfl, rfl, rfl, rfl, rfl, rfl, rfl, rfl⟩,
      fun hc hready => ⟨_, step_ocrCondReady hs hp hr hc hready, rfl, rfl, rfl, rfl, rfl, rfl, rfl, rfl, rfl⟩⟩⟩
  have hretry : resume s = ocrRetry s := by
    obtain ⟨hc, ho⟩ | ⟨hc, ho⟩ := h
    · exact resume_ocrApp_notOk hc hr ho
    · exact resume_ocrCond_notReady hc hr ho
  exact ⟨_, run_ocrRetry hs hp hretry hlt, rfl, rfl, rfl, rfl, rfl, rfl, rfl, rfl, rfl⟩

/-- The argument of an addressed command is the RCA in the upper half (30 R107). -/
theorem rcaArg_eq_shiftLeft (rca : BitVec 16) : rcaArg rca = rca.setWidth 32 <<< 16 :=
  (BitVec.append_def rca 0).trans (by simp [BitVec.shiftLeftZeroExtend_eq])

/-- The RCA taken from a response word and put back into an argument is the word with its lower half cleared. -/
theorem rcaArg_extract (r : Word) : rcaArg (r.extractLsb' 16 16) = r &&& 0xFFFF0000 :=
  have hhalves : r.extractLsb' 16 16 ++ r.extractLsb' 0 16 = r :=
    (BitVec.extractLsb'_append_extractLsb'_eq_extractLsb' rfl).trans BitVec.extractLsb'_eq_self
  calc rcaArg (r.extractLsb' 16 16)
    _ = (r.extractLsb' 16 16 ++ r.extractLsb' 0 16) &&& (BitVec.allOnes 16 ++ (0 : BitVec 16)) := by
      rw [BitVec.and_append, BitVec.and_allOnes, rcaArg, BitVec.ofNat_eq_ofNat, BitVec.and_zero]
    _ = r &&& 0xFFFF0000 := by rw [hhalves]; rfl

/-- Settles O41: what follows the `Ok` exchange of each of the four states. -/
theorem sessionRegistersRecorded : Obligations.SessionRegistersRecorded := by
  refine fun s r0 r1 r2 r3 hs hp hr => ⟨fun hc => ?identify, fun hc => ?address, fun hc => ?csd, fun hc => ?select⟩
  case identify => exact ⟨_, step_identifyOk hs hp hr hc, rfl, rfl, rfl, rfl, rfl, rfl, rfl, rfl, rfl⟩
  case address =>
    exact ⟨_, step_addressOk hs hp hr hc, rfl, rfl, rfl, rcaArg_extract r0, rfl, rfl, rfl, rfl, rfl⟩
  case csd =>
    exact ⟨_, step_csdOk hs hp hr hc, rfl, rfl, rfl, rcaArg_eq_shiftLeft _, rfl, rfl, rfl, rfl, rfl⟩
  case select =>
    exact ⟨_, step_selectOk hs hp hr hc, rfl, rfl, rfl, rcaArg_eq_shiftLeft _, rfl, rfl, rfl, rfl, rfl⟩

/-! ## ClockReset (R222) -/

theorem NextMoves.exists_cons_three {P : EnvMove → Prop} {k : Nat} {l : List EnvMove} (h : NextMoves P (k + 3) l) :
    ∃ m0 m1 m2 ms, l = m0 :: m1 :: m2 :: ms ∧ P m2 := by
  obtain ⟨ms, rest, rfl, hlen, hP⟩ := h
  match ms, hlen, hP with
  | m0 :: m1 :: m2 :: ms, _, hP => exact ⟨m0, m1, m2, ms ++ rest, rfl, hP m2 (by simp)⟩

/-- A pulse answered leaves the parameters and what surrounds it alone, and has used three moves. -/
theorem pulseAnswered_kept (s : State) : (pulseAnswered s).cfg = s.cfg ∧
    (pulseAnswered s).surroundings = s.surroundings ∧ (pulseAnswered s).env.script = s.env.script.tail.tail.tail := by
  refine ⟨?_, ?_, ?_⟩
  · simp [pulseAnswered, pulsePolled, waitBegin, writePulse]
  · simp [State.surroundings, pulseAnswered, pulsePolled, waitBegin, writePulse]
  · simp only [pulseAnswered, finish_env, noteSnap_env, readReg_env]; rfl

/-- Four steps lead from `s` to `t`: a write of `v` to CLKENA and the commit pulse after it, which was answered for `c`
at its first poll. -/
structure ClkenaCommitted (c : Ctx) (v : Word) (s t : State) : Prop where
  run_eq : Host.Core.run core 4 s = .next t
  phase_eq : t.ph.phase = .returned
  ctx_eq : t.ph.ctx = c
  result_eq : t.result = some .done
  trace_eq : ∃ d n, t.trace = rdTxn s.cfg .cmd d :: .now n :: wrTxn s.cfg .cmd s.cfg.commitClkValue ::
    wrTxn s.cfg .clkena v :: s.trace
  committed : clockCommitted t
  clkena_eq : t.regs.clkena = v
  clkdiv_eq : t.regs.clkdiv = s.regs.clkdiv
  cmdarg_eq : t.regs.cmdarg = s.regs.cmdarg
  cfg_eq : t.cfg = s.cfg
  surroundings_eq : t.surroundings = s.surroundings
  script_eq : t.env.script = s.env.script.tail.tail.tail.tail

theorem ClkenaCommitted.running {c : Ctx} {v : Word} (h : ClkenaCommitted c v s t) (hs : s.running) : t.running := by
  obtain ⟨-, -, -, hport, hfault, hline⟩ := surroundings_eq_iff.mp h.surroundings_eq
  exact running_of_eq hs (by simp [h.phase_eq]) h.cfg_eq hfault hline hport

/-- Each half of ClockReset, against a controller that accepts the pulse at once. -/
theorem exists_clkenaCommitted {c : Ctx} {v : Word} {k : Nat} (hs : s.running) (hc : c.alone = false)
    (ha : advance s = .next (issueCommitClk c (writeReg .clkena v s)))
    (hmoves : NextMoves (fun m => cmdStart s.cfg.layout m.cmd = false) (k + 4) s.env.script) :
    ∃ t, ClkenaCommitted c v s t := by
  obtain ⟨m0, m1, m2, ms, hscript, h2⟩ := hmoves.tail.exists_cons_three
  have hstarted : (issueCommitClk c (writeReg .clkena v s)).running := running_of_eq hs
  obtain ⟨hphase, hctx⟩ := finish_returned (s := issueCommitClk c (writeReg .clkena v s)) .done hc
  obtain ⟨hclkdiv, hclkena, hcmdarg⟩ := pulseAnswered_own (issueCommitClk c (writeReg .clkena v s))
  obtain ⟨hcfg, hsurroundings, hleft⟩ := pulseAnswered_kept (issueCommitClk c (writeReg .clkena v s))
  exact ⟨_, (run_succ (step_advance hs ha)).trans (run_pulseAnswered hstarted rfl hscript h2), hphase, hctx, rfl,
    pulseAnswered_trace _, clockCommitted_pulseAnswered hstarted rfl hscript h2, hclkena, hclkdiv, hcmdarg, hcfg,
    hsurroundings, hleft⟩

theorem step_pulseOffDone (hs : s.running) (hp : s.ph.phase = .returned) (hc : s.ph.ctx = .pulseOff)
    (hr : s.result = some .done) : step s = .next (s.goto .clockDivide) := by
  rw [step_returned hs hp, resume, hc]
  exact congrArg _ (if_pos (congrArg resultDone hr))

theorem step_pulseOnDone (hs : s.running) (hp : s.ph.phase = .returned) (hc : s.ph.ctx = .pulseOn)
    (hr : s.result = some .done) : step s = .next (startReset .fifo .fifoReset (s.enter .fifoReset)) := by
  rw [step_returned hs hp, resume, hc]
  exact congrArg _ (if_pos (congrArg resultDone hr))

/-- After the first pulse the divider is written. -/
theorem run_clockDivide (hs : s.running) (hp : s.ph.phase = .returned) (hc : s.ph.ctx = .pulseOff)
    (hr : s.result = some .done) : Host.Core.run core 2 s = .next (clockDivide (s.goto .clockDivide)) := by
  have hdivide : step (s.goto .clockDivide) = .next (clockDivide (s.goto .clockDivide)) :=
    step_advance (running_of_eq hs) rfl
  rw [run_succ (step_pulseOffDone hs hp hc hr), run_succ hdivide, run_zero]

/-- The eleven steps of ClockReset: its two halves, the write of the divider between them, and the step into
FifoReset. -/
theorem run_clockReset {a b : State} {v v' : Word} (hs : s.running) (hoff : ClkenaCommitted .pulseOff v s a)
    (hon : ClkenaCommitted .pulseOn v' (clockDivide (a.goto .clockDivide)) b) :
    Host.Core.run core 11 s = .next (startReset .fifo .fifoReset (b.enter .fifoReset)) := by
  have ha := hoff.running hs
  have hdivide := run_clockDivide ha hoff.phase_eq hoff.ctx_eq hoff.result_eq
  have hlast := step_pulseOnDone (hon.running (running_of_eq ha)) hon.phase_eq hon.ctx_eq hon.result_eq
  rw [run_add (j := 4) (k := 7) hoff.run_eq, run_add (j := 2) (k := 5) hdivide, run_add (j := 4) (k := 1) hon.run_eq,
    run_succ hlast, run_zero]

/-- Settles O37: the run of ClockReset, each half of it by `exists_clkenaCommitted`. -/
theorem clockResetRuns : Obligations.ClockResetRuns := by
  intro s ms rest hs hp _ hscript hlen hlow
  have hmoves : NextMoves (fun m => cmdStart s.cfg.layout m.cmd = false) 9 s.env.script :=
    ⟨ms, rest, hscript, hlen, hlow⟩
  obtain ⟨a, hoff⟩ := exists_clkenaCommitted hs rfl (by rw [advance, hp, clockOff]) hmoves
  have hleft : NextMoves (fun m => cmdStart a.cfg.layout m.cmd = false) 4 a.env.script.tail := by
    rw [hoff.cfg_eq, hoff.script_eq]; exact hmoves.tail.tail.tail.tail.tail
  obtain ⟨b, hon⟩ := exists_clkenaCommitted (s := clockDivide (a.goto .clockDivide)) (k := 0)
    (running_of_eq (hoff.running hs)) rfl rfl hleft
  have hcfg : (clockDivide (a.goto .clockDivide)).cfg = s.cfg := hoff.cfg_eq
  have hdivided : (clockDivide (a.goto .clockDivide)).trace =
      wrTxn a.cfg .clkdiv (encClkdiv a.cfg.layout { divider := a.cfg.initDiv }) :: a.trace := rfl
  obtain ⟨c0, n0, htrace0⟩ := hoff.trace_eq
  obtain ⟨c1, n1, htrace1⟩ := hon.trace_eq
  obtain ⟨-, hdiv, hena⟩ := hon.committed
  obtain ⟨hses0, hmem0, -⟩ := surroundings_eq_iff.mp hoff.surroundings_eq
  obtain ⟨hses1, hmem1, -⟩ := surroundings_eq_iff.mp hon.surroundings_eq
  refine ⟨_, c0, c1, n0, n1, run_clockReset hs hoff hon, ?trace, rfl, rfl, rfl, ?clkena, ?clkdiv, hdiv, hena,
    hses1.trans hses0, hmem1.trans hmem0, hon.cmdarg_eq.trans hoff.cmdarg_eq⟩
  case trace => rw [startReset_trace, enter_trace, htrace1, hcfg, hdivided, htrace0, hoff.cfg_eq]
  case clkena => rw [← hcfg]; exact hon.clkena_eq
  case clkdiv => rw [← hoff.cfg_eq]; exact hon.clkdiv_eq

end Sys2Proof.Machine
end

section
/-! SUPPORT. Proofs of the statements of 45_block_api.md: the acceptance of the client operations (R250 to R255),
PROGRAM_TXN (R258), the completion of a block operation (R252, R253), and what a block that is busy, faulted, idle or
held in reset does (R256). -/

namespace Sys2Proof.Machine

variable {s : State}

/-! ## The acceptance of INIT (R251) -/

theorem beginInit_powerOn (h : s.ph.ps = .powerOn) : beginInit s =
    { s with ph := { s.ph with ps := .clockReset, phase := .clockOff, ctx := .pulseOff } } := if_pos h

theorem beginInit_again (h : s.ph.ps ≠ .powerOn) : beginInit s = raise (.contractViolation .secondInit) s := if_neg h

/-- Settles O15: the request is accepted, and the protocol state decides between ClockReset and the fault. -/
theorem initAccepted : Obligations.InitAccepted := fun s hidle =>
  ⟨fun h => (accept_idle hidle _).trans (congrArg _ (beginInit_powerOn (s := beginRequest s) h)),
    fun h => (accept_idle hidle _).trans (congrArg _ (beginInit_again (s := beginRequest s) h))⟩

/-! ## The acceptance of READ_BLOCK and WRITE_BLOCK (R252 to R255) -/

section
variable {buf : ClientBuffer} (index : Word)

theorem beginReadBlock_badLength (hl : buf.len.toNat ≠ 512) :
    beginReadBlock index buf s = raise (.contractViolation .bufferLength) s := if_pos hl

theorem beginReadBlock_gated (hl : buf.len.toNat = 512) (hu : s.ses.usable = false) :
    beginReadBlock index buf s = completeFailedRead buf.handle .initError s :=
  (if_neg (not_not.mpr hl)).trans (if_pos hu)

theorem beginReadBlock_usable (hl : buf.len.toNat = 512) (hu : s.ses.usable = true) : beginReadBlock index buf s =
    startTxn .readBlock { s with wrk := { s.wrk with index := index, buf := buf.handle } } :=
  (if_neg (not_not.mpr hl)).trans (if_neg (by simp [hu]))

theorem beginWriteBlock_badLength (hl : buf.len.toNat ≠ 512) :
    beginWriteBlock index buf s = raise (.contractViolation .bufferLength) s := if_pos hl

theorem beginWriteBlock_gated (hl : buf.len.toNat = 512) (hu : s.ses.usable = false) :
    beginWriteBlock index buf s = complete (.err .initError) s :=
  (if_neg (not_not.mpr hl)).trans (if_pos hu)

theorem beginWriteBlock_usable (hl : buf.len.toNat = 512) (hu : s.ses.usable = true) : beginWriteBlock index buf s =
    startTxn .writeBlock { s with wrk := { s.wrk with index := index, buf := buf.handle } } :=
  (if_neg (not_not.mpr hl)).trans (if_neg (by simp [hu]))

end

/-- The bytes outside a spoilt buffer read as before (20 R79, 93 U2). -/
theorem spoilBuffer_outside {b : Word} {a : Nat} (ha : ¬ inBuffer b a) :
    (spoilBuffer b s).mem.read a = s.mem.read a := by
  have hlen := scribble_take_length (nextMove s).scribble
  unfold inBuffer at ha
  exact memory_read_scribble_ne _ _ _ _ (by omega)

/-- `t` is `s` with a block operation on the buffer `b` completed: idle, with no access made and nothing changed outside
the buffer. -/
structure Concluded (b : Word) (s t : State) : Prop where
  idle : t.isIdle = true
  ps_eq : t.ph.ps = s.ph.ps
  ses_eq : t.ses = s.ses
  wrk_eq : t.wrk = s.wrk
  regs_eq : t.regs = s.regs
  trace_eq : t.trace = s.trace
  fault_eq : t.fault = s.fault
  outside : ∀ a, ¬ inBuffer b a → t.mem.read a = s.mem.read a

theorem concluded_complete (b : Word) (c : Completion) : Concluded b s (complete c s) :=
  ⟨rfl, rfl, rfl, rfl, rfl, rfl, rfl, fun _ _ => rfl⟩

theorem concluded_completeFailedRead (b : Word) (e : Error) : Concluded b s (completeFailedRead b e s) :=
  ⟨rfl, rfl, rfl, rfl, rfl, rfl, rfl, fun _ ha => spoilBuffer_outside ha⟩

/-- Settles O16: the length check, the usable gate and PROGRAM_TXN are the three branches of `beginReadBlock`. -/
theorem readBlockAccepted : Obligations.ReadBlockAccepted := by
  refine fun s index buf hidle => ⟨fun hl => ?length, fun hl hu => ?gate, fun hl hu => ?usable⟩
  case length => exact (accept_idle hidle _).trans (congrArg _ (beginReadBlock_badLength index hl))
  case gate =>
    obtain ⟨hi, hps, hses, hwrk, hregs, htrace, hfault, hout⟩ :=
      concluded_completeFailedRead (s := beginRequest s) buf.handle .initError
    exact ⟨_, (accept_idle hidle _).trans (congrArg _ (beginReadBlock_gated index hl hu)), rfl, hregs, htrace, hses,
      hwrk, hfault, hi, hps, hout⟩
  case usable => exact (accept_idle hidle _).trans (congrArg _ (beginReadBlock_usable index hl hu))

/-- Settles O17: the three branches of `beginWriteBlock`. -/
theorem writeBlockAccepted : Obligations.WriteBlockAccepted := by
  refine fun s index buf hidle => ⟨fun hl => ?length, fun hl hu => ?gate, fun hl hu => ?usable⟩
  case length => exact (accept_idle hidle _).trans (congrArg _ (beginWriteBlock_badLength index hl))
  case gate => exact (accept_idle hidle _).trans (congrArg _ (beginWriteBlock_gated index hl hu))
  case usable => exact (accept_idle hidle _).trans (congrArg _ (beginWriteBlock_usable index hl hu))

/-! ## PROGRAM_TXN (R258) -/

/-- What the exchange that PROGRAM_TXN prepares is for: the SCR, a block to read or a block to write. -/
theorem forData_cases {c : Ctx} (h : c.forData = true) :
    (c = .scr ∨ c = .scrRow) ∨ (c = .readBlock ∨ c = .readRow) ∨ (c = .writeBlock ∨ c = .writeRow) := by
  cases c with
  | scr | scrRow | readBlock | readRow | writeBlock | writeRow => simp
  | bare | pulseOff | pulseOn | fifoReset | dmaReset | goIdle | voltage | ocrApp | ocrCond | identify
  | address | csd | select | scrApp => cases h

theorem startData_scr (h : s.ph.ctx = .scr ∨ s.ph.ctx = .scrRow) :
    startData s = startXchg .sendScr 0 (.read .scr s.cfg.scrWords) s.ph.ctx s := by
  rcases h with hc | hc <;> simp only [startData, hc, issueSendScr_eq]

theorem startData_read (h : s.ph.ctx = .readBlock ∨ s.ph.ctx = .readRow) : startData s =
    startXchg .readSingleBlock s.wrk.index (.read (.client s.wrk.buf) s.cfg.blockWords) s.ph.ctx s := by
  rcases h with hc | hc <;> simp only [startData, hc, issueReadSingleBlock_eq]

theorem startData_write (h : s.ph.ctx = .writeBlock ∨ s.ph.ctx = .writeRow) : startData s =
    startXchg .writeSingleBlock s.wrk.index (.write s.wrk.buf s.cfg.blockWords) s.ph.ctx s := by
  rcases h with hc | hc <;> simp only [startData, hc, issueWriteSingleBlock_eq]

/-- Whatever it is for, PROGRAM_TXN ends with the start of an exchange for the same. -/
theorem exists_startData (h : s.ph.ctx.forData = true) : ∃ c a d, startData s = startXchg c a d s.ph.ctx s := by
  obtain hc | hc | hc := forData_cases h
  · exact ⟨_, _, _, startData_scr hc⟩
  · exact ⟨_, _, _, startData_read hc⟩
  · exact ⟨_, _, _, startData_write hc⟩

/-- PROGRAM_TXN has made its two writes. -/
def sizesWritten (s : State) : State := writeReg .bytcnt
  (encBytcnt s.cfg.layout { byteCount := BitVec.ofNat 32 (txnBytes s.ph.ctx) }) (programSize s)

/-- The state PROGRAM_TXN ends in: the exchange it prepared has begun. -/
def txnProgrammed (s : State) : State := startData (sizesWritten s)

theorem run_txnProgrammed (hs : s.running) (hp : s.ph.phase = .blockSize) :
    Host.Core.run core 2 s = .next (txnProgrammed s) := by
  have hsize : step s = .next (programSize s) := step_advance hs (by rw [advance, hp])
  have hcount : step (programSize s) = .next (txnProgrammed s) := step_advance (running_of_eq hs) rfl
  rw [run_succ hsize, run_succ hcount, run_zero]

theorem agree_txnProgrammed (s : State) : PortsAgree (txnProgrammed s) (sizesWritten s) := agree_startData

theorem txnProgrammed_regs (s : State) :
    (txnProgrammed s).regs.blksiz = encBlksiz s.cfg.layout { blockSize := BitVec.ofNat 16 (txnBytes s.ph.ctx) } ∧
    (txnProgrammed s).regs.bytcnt = encBytcnt s.cfg.layout { byteCount := BitVec.ofNat 32 (txnBytes s.ph.ctx) } ∧
    (txnProgrammed s).regs.cmdarg = s.regs.cmdarg := by
  rw [(agree_txnProgrammed s).regs_eq]
  exact ⟨rfl, rfl, rfl⟩

theorem txnProgrammed_trace (s : State) : (txnProgrammed s).trace =
    wrTxn s.cfg .bytcnt (txnProgrammed s).regs.bytcnt :: wrTxn s.cfg .blksiz (txnProgrammed s).regs.blksiz ::
      s.trace := by
  obtain ⟨hsize, hcount, -⟩ := txnProgrammed_regs s
  rw [(agree_txnProgrammed s).trace_eq, hsize, hcount]
  rfl

theorem txnBytes_scr {c : Ctx} (h : c = .scr ∨ c = .scrRow) : txnBytes c = 8 := if_pos h

theorem txnBytes_block {c : Ctx} (h : c ≠ .scr ∧ c ≠ .scrRow) : txnBytes c = 512 := if_neg (not_or.mpr h)

theorem not_scr_of_block {c : Ctx} (h : (c = .readBlock ∨ c = .readRow) ∨ c = .writeBlock ∨ c = .writeRow) :
    c ≠ .scr ∧ c ≠ .scrRow := by
  rcases h with (rfl | rfl) | rfl | rfl <;> exact ⟨nofun, nofun⟩

theorem txnProgrammed_scrSizes (hc : s.ph.ctx = .scr ∨ s.ph.ctx = .scrRow) :
    (txnProgrammed s).regs.blksiz = encBlksiz s.cfg.layout { blockSize := 8 } ∧
    (txnProgrammed s).regs.bytcnt = encBytcnt s.cfg.layout { byteCount := 8 } := by
  obtain ⟨hsize, hcount, -⟩ := txnProgrammed_regs s
  rw [hsize, hcount, txnBytes_scr hc]
  exact ⟨rfl, rfl⟩

theorem txnProgrammed_blockSizes (hc : s.ph.ctx ≠ .scr ∧ s.ph.ctx ≠ .scrRow) :
    (txnProgrammed s).regs.blksiz = encBlksiz s.cfg.layout { blockSize := 512 } ∧
    (txnProgrammed s).regs.bytcnt = encBytcnt s.cfg.layout { byteCount := 512 } := by
  obtain ⟨hsize, hcount, -⟩ := txnProgrammed_regs s
  rw [hsize, hcount, txnBytes_block hc]
  exact ⟨rfl, rfl⟩

theorem txnProgrammed_scr (hc : s.ph.ctx = .scr ∨ s.ph.ctx = .scrRow) : (txnProgrammed s).wrk =
    { s.wrk with cmdval := cardValue s.cfg .sendScr, arg := 0, td := .read .scr s.cfg.scrWords } :=
  congrArg State.wrk (startData_scr (s := sizesWritten s) hc)

theorem txnProgrammed_read (hc : s.ph.ctx = .readBlock ∨ s.ph.ctx = .readRow) : (txnProgrammed s).wrk =
    { s.wrk with
      cmdval := cardValue s.cfg .readSingleBlock, arg := s.wrk.index
      td := .read (.client s.wrk.buf) s.cfg.blockWords } :=
  congrArg State.wrk (startData_read (s := sizesWritten s) hc)

theorem txnProgrammed_write (hc : s.ph.ctx = .writeBlock ∨ s.ph.ctx = .writeRow) : (txnProgrammed s).wrk =
    { s.wrk with
      cmdval := cardValue s.cfg .writeSingleBlock, arg := s.wrk.index
      td := .write s.wrk.buf s.cfg.blockWords } :=
  congrArg State.wrk (startData_write (s := sizesWritten s) hc)

/-- Under the default layout a size is its register's value (30 R98, R99). -/
theorem sizes_of_printed {p : Params} (h : p.printed) :
    (encBlksiz p.layout { blockSize := 8 } = 8 ∧ encBytcnt p.layout { byteCount := 8 } = 8) ∧
    encBlksiz p.layout { blockSize := 512 } = 512 ∧ encBytcnt p.layout { byteCount := 512 } = 512 := by
  obtain ⟨hl, -⟩ := h
  rw [hl]
  decide

/-- PROGRAM_TXN under the parameters R116 prints its CMD values for. -/
theorem txnProgrammed_printed (h : s.cfg.printed) :
    (s.ph.ctx = .scr ∨ s.ph.ctx = .scrRow → (txnProgrammed s).regs.blksiz = 8 ∧
      (txnProgrammed s).regs.bytcnt = 8 ∧ (txnProgrammed s).wrk.cmdval = 0x80000373) ∧
    (s.ph.ctx = .readBlock ∨ s.ph.ctx = .readRow → (txnProgrammed s).regs.blksiz = 512 ∧
      (txnProgrammed s).regs.bytcnt = 512 ∧ (txnProgrammed s).wrk.cmdval = 0x80000351) ∧
    (s.ph.ctx = .writeBlock ∨ s.ph.ctx = .writeRow → (txnProgrammed s).regs.blksiz = 512 ∧
      (txnProgrammed s).regs.bytcnt = 512 ∧ (txnProgrammed s).wrk.cmdval = 0x80000758) := by
  obtain ⟨⟨h8, h8'⟩, h512, h512'⟩ := sizes_of_printed h
  refine ⟨fun hc => ?scr, fun hc => ?read, fun hc => ?write⟩
  case scr =>
    obtain ⟨hsize, hcount⟩ := txnProgrammed_scrSizes hc
    exact ⟨hsize.trans h8, hcount.trans h8',
      (congrArg _ (txnProgrammed_scr hc)).trans (cardValue_of_printed h .sendScr)⟩
  case read =>
    obtain ⟨hsize, hcount⟩ := txnProgrammed_blockSizes (not_scr_of_block (.inl hc))
    exact ⟨hsize.trans h512, hcount.trans h512',
      (congrArg _ (txnProgrammed_read hc)).trans (cardValue_of_printed h .readSingleBlock)⟩
  case write =>
    obtain ⟨hsize, hcount⟩ := txnProgrammed_blockSizes (not_scr_of_block (.inr hc))
    exact ⟨hsize.trans h512, hcount.trans h512',
      (congrArg _ (txnProgrammed_write hc)).trans (cardValue_of_printed h .writeSingleBlock)⟩

/-- Whatever it is for, the exchange has begun at its step 1, and nothing around it has changed. -/
theorem txnProgrammed_begun (hd : s.ph.ctx.forData = true) :
    (txnProgrammed s).ph = { s.ph with xstep := 1, phase := .wait .ready .start } ∧
    (txnProgrammed s).ses = s.ses ∧ (txnProgrammed s).mem = s.mem := by
  obtain ⟨c, a, d, hstart⟩ := exists_startData (s := sizesWritten s) hd
  rw [txnProgrammed, hstart]
  exact ⟨rfl, rfl, rfl⟩

/-- Settles O18: the two writes by `txnProgrammed_scrSizes`, `txnProgrammed_blockSizes` and `txnProgrammed_trace`, the
operands of the exchange by `txnProgrammed_scr`, `txnProgrammed_read` and `txnProgrammed_write`. -/
theorem blockCommandsProgrammed : Obligations.BlockCommandsProgrammed := by
  intro s hs hp hd
  obtain ⟨-, -, hcmdarg⟩ := txnProgrammed_regs s
  obtain ⟨hph, hses, hmem⟩ := txnProgrammed_begun hd
  refine ⟨_, run_txnProgrammed hs hp, txnProgrammed_scrSizes, txnProgrammed_blockSizes, txnProgrammed_trace s,
    by rw [hph], by rw [hph], by rw [hph], fun hc => ?read, fun hc => ?write, fun hc => ?scr, hses, hmem, hcmdarg,
    txnProgrammed_printed⟩
  case read => rw [txnProgrammed_read hc]; exact ⟨rfl, rfl, rfl⟩
  case write => rw [txnProgrammed_write hc]; exact ⟨rfl, rfl, rfl⟩
  case scr => rw [txnProgrammed_scr hc]; exact ⟨rfl, rfl, rfl⟩

/-! ## The completion of a block operation (R252, R253) -/

section
variable {r0 r1 r2 r3 : Word} {f : BitVec 16} {k : Fin 9}

theorem resume_blockOk (hc : s.ph.ctx = .readBlock ∨ s.ph.ctx = .writeBlock)
    (hr : s.result = some (.xchg (.ok r0 r1 r2 r3))) : resume s = complete .ok s := by
  rcases hc with hc | hc <;> simp only [resume, hc, afterReadBlock, afterWriteBlock, hr, resultOutcome]

theorem resume_readFailed (hc : s.ph.ctx = .readBlock) (hr : s.result = some (.xchg (.failed f))) :
    resume s = completeFailedRead s.wrk.buf .readError s := by
  simp only [resume, hc, afterReadBlock, hr, resultOutcome]

theorem resume_readTimedOut (hc : s.ph.ctx = .readBlock) (hr : s.result = some (.xchg (.timedOut k))) :
    resume s = completeFailedRead s.wrk.buf .timeoutError s := by
  simp only [resume, hc, afterReadBlock, hr, resultOutcome]

theorem resume_writeFailed (hc : s.ph.ctx = .writeBlock) (hr : s.result = some (.xchg (.failed f))) :
    resume s = complete (.err .writeError) s := by
  simp only [resume, hc, afterWriteBlock, hr, resultOutcome]

theorem resume_writeTimedOut (hc : s.ph.ctx = .writeBlock) (hr : s.result = some (.xchg (.timedOut k))) :
    resume s = complete (.err .timeoutError) s := by
  simp only [resume, hc, afterWriteBlock, hr, resultOutcome]

end

/-- A block operation whose exchange has returned is concluded, whatever the outcome. -/
theorem concluded_resume {o : XOutcome} (hc : s.ph.ctx = .readBlock ∨ s.ph.ctx = .writeBlock)
    (hr : s.result = some (.xchg o)) : Concluded s.wrk.buf s (resume s) := by
  cases o with
  | ok r0 r1 r2 r3 => rw [resume_blockOk hc hr]; exact concluded_complete ..
  | failed f =>
    obtain hc | hc := hc
    · rw [resume_readFailed hc hr]; exact concluded_completeFailedRead ..
    · rw [resume_writeFailed hc hr]; exact concluded_complete ..
  | timedOut k =>
    obtain hc | hc := hc
    · rw [resume_readTimedOut hc hr]; exact concluded_completeFailedRead ..
    · rw [resume_writeTimedOut hc hr]; exact concluded_complete ..

/-- Settles O19: the common part by `concluded_resume`, each completion by the equation of its outcome. -/
theorem blockOutcomesMapped : Obligations.BlockOutcomesMapped := by
  intro s o hs hp hr hc
  obtain ⟨hi, hps, hses, hwrk, hregs, htrace, -, hout⟩ := concluded_resume hc hr
  refine ⟨_, step_returned hs hp, hi, hses, hps, htrace, hregs, hwrk, ?ok, ?readFailed, ?writeFailed, ?timedOut,
    ?writeTimedOut, hout⟩
  case ok => rintro r0 r1 r2 r3 rfl; rw [resume_blockOk hc hr]; exact ⟨rfl, rfl⟩
  case readFailed => rintro f rfl hread; rw [resume_readFailed hread hr]; rfl
  case writeFailed => rintro f rfl hwrite; rw [resume_writeFailed hwrite hr]; exact ⟨rfl, rfl⟩
  case timedOut =>
    rintro k rfl
    obtain hread | hwrite := hc
    · rw [resume_readTimedOut hread hr]; rfl
    · rw [resume_writeTimedOut hwrite hr]; rfl
  case writeTimedOut => rintro k rfl hwrite; rw [resume_writeTimedOut hwrite hr]; rfl

/-! ## A step runs the decoded instruction (R250) -/

theorem decode_of_tableWord {n w : Nat} {i : Instr} (h : decodeTableWord n w = some i) :
    decode (tableWords n w) = .ok i := by
  unfold decodeTableWord at h
  split at h <;> cases h
  assumption

/-- Settles O43: `step_runs`, for any state and for the one `withFetchWord` presents the word to. -/
theorem stepRunsDecodedInstruction : Obligations.StepRunsDecodedInstruction := by
  refine ⟨fun s o i hs hi hp hd => step_runs hs hi hp hd, fun s n w i hw h => ?presented⟩
  have hs : (s.withFetchWord n w).inService := ⟨rfl, hw, rfl⟩
  exact step_runs hs rfl rfl (decode_of_tableWord h)

/-! ## Busy, faulted, idle and reset (R256, 60 R272, 70 R310, R311) -/

theorem isIdle_false_of_busy (h : s.ph.phase ≠ .idle ∨ s.ph.busy = true) : s.isIdle = false := by
  rw [← Bool.not_eq_true, isIdle_iff]
  rintro ⟨hphase, hbusy⟩
  exact h.elim (absurd hphase) (by simp [hbusy])

theorem accept_busy (h : s.isIdle = false) (u : State) : accept s u = .refused .busy := if_neg (by simp [h])

/-- No instruction is accepted while an operation is in progress (R256). -/
theorem exec_busy (h : s.isIdle = false) (i : Instr) : exec i s = .refused .busy := by
  cases i with
  | goIdleState | allSendCid | sendRelativeAddr | selectCard | sendIfCond | sendCsd | readSingleBlock
  | writeSingleBlock | sdSendOpCond | sendScr | appCmd | commitClk | init | readBlock
  | writeBlock => exact accept_busy h _

theorem step_busy (hs : s.inService) (hi : s.isIdle = false) (hp : s.port.isSome = true) :
    step s = .refused .busy := by
  obtain ⟨hline, hwf, hfault⟩ := hs
  obtain ⟨o, ho⟩ := Option.isSome_iff_exists.mp hp
  simp [step, hline, hwf, hfault, hi, ho]

theorem step_faulted {f : Fault} (hline : s.resetLine = false) (hwf : s.cfg.wf = true) (hf : s.fault = some f) :
    step s = .fault f := by
  simp [step, hline, hwf, hf]

theorem step_badParameters (hline : s.resetLine = false) (hwf : s.cfg.wf = false) :
    step s = .refused .badParameters := by
  simp [step, hline, hwf]

theorem step_reset (h : s.resetLine = true) : step s = .next (blockReset s) := if_pos h

/-- A reset leaves every byte outside the buffer of an abandoned READ_BLOCK (93 U2). -/
theorem blockReset_outside {a : Nat} (ha : ¬ (s.ph.ctx = .readBlock ∧ inBuffer s.wrk.buf a)) :
    (blockReset s).mem.read a = s.mem.read a := by
  rw [blockReset_mem, spoilRead]
  split
  case isTrue hc => exact spoilBuffer_outside fun hin => ha ⟨hc, hin⟩
  case isFalse => rfl

/-- Settles O44: a clause for each way `step` ends before an operation goes on. -/
theorem busyRefusedFaultKept : Obligations.BusyRefusedFaultKept := by
  refine ⟨fun s i h => exec_busy (isIdle_false_of_busy h) i, fun s hs hi hp => step_busy hs hi hp,
    fun s f hline hwf hf => step_faulted hline hwf hf, fun s hs hi hp => step_waits hs hi hp, fun s h => ?reset,
    fun s hline hwf => step_badParameters hline hwf⟩
  exact ⟨_, step_reset h, rfl, rfl, rfl, rfl, rfl, rfl, rfl, rfl, rfl, fun a ha => blockReset_outside ha⟩

end Sys2Proof.Machine
end

section
/-! SUPPORT. Proofs of the statements of 60_exceptions.md: the fault of the read pump (R272, R275), the clock and the
end of every bounded loop (R284), and the error nothing produces (R291). -/

namespace Sys2Proof.Machine

variable {s t u : State}

/-! ## The read pump at a full buffer (R272, R275) -/

/-- With no room left in the buffer the read pump raises the fault at a count of 2 or more. -/
theorem pumpCounted_overrun {dst : Dest} {n count : Nat} (htd : s.wrk.td = .read dst n) (hfull : n ≤ s.wrk.cursor)
    (hcount : 2 ≤ count) : pumpCounted count s = raise (.bufferOverrun s.wrk.cursor) (spoilRead s) := by
  simp only [pumpCounted, htd, if_pos hfull]
  exact if_pos hcount

theorem spoilRead_outside {a : Nat} (ha : ¬ (s.ph.ctx = .readBlock ∧ inBuffer s.wrk.buf a)) :
    (spoilRead s).mem.read a = s.mem.read a := by
  rw [← blockReset_mem]; exact blockReset_outside ha

/-- Settles O29: the step is `pumpCounted_overrun` after the STATUS read, and the next one answers that fault. -/
theorem fullBufferOverruns : Obligations.FullBufferOverruns := by
  intro s dst n hs hp htd hfull hcount
  have ⟨⟨hline, hwf, _⟩, _⟩ := hs
  have hraised := pumpCounted_overrun (s := readReg .status s) htd hfull hcount
  exact ⟨_, (step_pumpCount hs hp).trans (congrArg _ hraised), rfl, rfl, rfl,
    fun a ha => spoilRead_outside (s := readReg .status s) ha, rfl, spoilRead_fifo _, rfl,
    step_faulted hline hwf rfl⟩

/-! ## The clock (R284) -/

theorem envStep_clock_le : s.env.clock ≤ (envStep s).env.clock := Nat.le_add_right _ _

theorem step_clock_le (h : step s = .next t) : s.env.clock ≤ t.env.clock := by
  cases step_ports h with
  | reboot _ h => exact h ▸ le_rfl
  | quiet h | chosen h => exact h.env_eq ▸ le_rfl
  | load _ _ h | loadChosen _ _ h | store _ _ _ h | drain _ h | fill _ _ h | clock h | delay _ h =>
    exact h.env_eq ▸ envStep_clock_le

/-- A step that reads the time port records the clock as it stands after the step. -/
theorem step_clock_read {n : Nat} (h : step s = .next t) (hn : t.trace = .now n :: s.trace) : n = t.env.clock := by
  cases step_ports h with
  | quiet h | chosen h => exact absurd (hn.symm.trans h.trace_eq) (List.cons_ne_self _ _)
  | reboot _ h => subst h; exact absurd hn.symm (List.cons_ne_self _ _)
  | load _ _ h | loadChosen _ _ h | store _ _ _ h | drain _ h | fill _ _ h | delay _ h =>
    cases hn.symm.trans h.trace_eq
  | clock h => rw [h.env_eq]; cases hn.symm.trans h.trace_eq; rfl

/-- How many moves the clock may still stand: no bound is known before a standstill has begun (R284). -/
def Env.patience (e : Env) : WithTop Nat :=
  match e.still with
  | none => ⊤
  | some k => k

/-- What is left until the deadline `d`: the milliseconds, and then the moves of a standstill. Nothing is left once it
has passed. -/
def Env.timeLeft (d : Nat) (e : Env) : Nat ×ₗ WithTop Nat :=
  if d ≤ e.clock then toLex (0, 0) else toLex (d - e.clock, e.patience)

theorem timeLeft_passed {d : Nat} {e : Env} (h : d ≤ e.clock) : e.timeLeft d = toLex (0, 0) := if_pos h

theorem timeLeft_open {d : Nat} {e : Env} (h : e.clock < d) : e.timeLeft d = toLex (d - e.clock, e.patience) :=
  if_neg (Nat.not_le.mpr h)

/-- Only the clock and its standstill count. -/
theorem timeLeft_congr {d : Nat} {e e' : Env} (hclock : e.clock = e'.clock) (hstill : e.still = e'.still) :
    e.timeLeft d = e'.timeLeft d := by
  simp only [Env.timeLeft, Env.patience, hclock, hstill]

/-- Every move before the deadline leaves less: fewer milliseconds, or a standstill that has begun or gone on. -/
theorem timeLeft_envStep_lt {d : Nat} (h : s.env.clock < d) : (envStep s).env.timeLeft d < s.env.timeLeft d := by
  rw [timeLeft_open h]
  rcases envStep_time (s := s) with hlt | ⟨hsame, k, hk, hstill⟩
  · rcases Nat.lt_or_ge (envStep s).env.clock d with hopen | hpassed
    · rw [timeLeft_open hopen]; exact Prod.Lex.toLex_lt_toLex.mpr (.inl (by omega))
    · rw [timeLeft_passed hpassed]; exact Prod.Lex.toLex_lt_toLex.mpr (.inl (by omega))
  · have hpatience : (envStep s).env.patience < s.env.patience := by
      rcases hstill with hnone | hsome
      · simp only [Env.patience, hk, hnone]; exact WithTop.coe_lt_top k
      · simp only [Env.patience, hk, hsome]; exact WithTop.coe_lt_coe.mpr (Nat.lt_succ_self k)
    rw [timeLeft_open (hsame ▸ h), hsame]
    exact Prod.Lex.toLex_lt_toLex.mpr (.inr ⟨rfl, hpatience⟩)

theorem timeLeft_envStep_le {d : Nat} : (envStep s).env.timeLeft d ≤ s.env.timeLeft d := by
  rcases Nat.lt_or_ge s.env.clock d with hopen | hpassed
  · exact (timeLeft_envStep_lt hopen).le
  · rw [timeLeft_passed hpassed, timeLeft_passed (hpassed.trans envStep_clock_le)]

/-- Whatever moves the environment makes, the clock passes every deadline. -/
theorem exists_clock_passed (s : State) (d : Nat) : ∃ k, d ≤ (Nat.iterate envStep k s).env.clock := by
  induction h : s.env.timeLeft d using WellFoundedLT.induction generalizing s with
  | ind τ ih =>
    subst h
    rcases Nat.lt_or_ge s.env.clock d with hopen | hpassed
    · obtain ⟨k, hk⟩ := ih _ (timeLeft_envStep_lt hopen) (envStep s) rfl
      exact ⟨k + 1, hk⟩
    · exact ⟨0, hpassed⟩

/-! ## Runs up to a deadline -/

/-- Some number of steps lead from `s` to `t`. -/
def Leads (s t : State) : Prop := ∃ k, Host.Core.run core k s = .next t

theorem Leads.refl (s : State) : Leads s s := ⟨0, run_zero⟩

theorem Leads.head (h : step s = .next u) (hu : Leads u t) : Leads s t := by
  obtain ⟨k, hk⟩ := hu
  exact ⟨k + 1, (run_succ h).trans hk⟩

/-- `t` is `s` at another place of its operation, where an answer may have been recorded. -/
def Onward (t s : State) : Prop := ∃ ph r, t = { s with ph := ph, result := r }

theorem Elsewhere.onward (h : Elsewhere t s) : Onward t s := by
  obtain ⟨ph, rfl⟩ := h
  exact ⟨ph, s.result, rfl⟩

theorem onward_finish (r : OpResult) : Onward (finish r s) s := ⟨_, _, rfl⟩

theorem Onward.surroundings_eq (h : Onward t s) : t.surroundings = s.surroundings := by
  obtain ⟨ph, r, rfl⟩ := h; rfl

/-- What a loop with a deadline goes by: whether the block is in service, the start of the wait, and the time. -/
def State.loopView (s : State) :
    Params × SessionRegs × Option OpWords × Option Fault × Bool × Nat × Nat × Option Nat :=
  (s.cfg, s.ses, s.port, s.fault, s.resetLine, s.wrk.t0, s.env.clock, s.env.still)

theorem loopView_eq_iff : t.loopView = s.loopView ↔ t.cfg = s.cfg ∧ t.ses = s.ses ∧ t.port = s.port ∧
    t.fault = s.fault ∧ t.resetLine = s.resetLine ∧ t.wrk.t0 = s.wrk.t0 ∧ t.env.clock = s.env.clock ∧
    t.env.still = s.env.still := by
  simp [State.loopView]

theorem Onward.loopView_eq (h : Onward t s) : t.loopView = s.loopView := by
  obtain ⟨ph, r, rfl⟩ := h; rfl

/-- The block can go on in a loop with the deadline `d`, until which at most `τ` is left. -/
structure Within (d : Nat) (τ : Nat ×ₗ WithTop Nat) (s : State) : Prop where
  inService : s.inService
  free : s.port = none
  deadline_eq : s.wrk.t0 + s.cfg.timeoutMs = d
  left_le : s.env.timeLeft d ≤ τ

section
variable {d : Nat} {τ : Nat ×ₗ WithTop Nat}

theorem within_of_running (h : s.running) : Within (s.wrk.t0 + s.cfg.timeoutMs)
    (s.env.timeLeft (s.wrk.t0 + s.cfg.timeoutMs)) s := by
  obtain ⟨hs, hp, -⟩ := h
  exact ⟨hs, hp, rfl, le_rfl⟩

theorem Within.congr (h : Within d τ u) (hv : t.loopView = u.loopView) : Within d τ t := by
  obtain ⟨hcfg, -, hport, hfault, hline, ht0, hclock, hstill⟩ := loopView_eq_iff.mp hv
  obtain ⟨⟨h1, h2, h3⟩, h4, h5, h6⟩ := h
  exact ⟨⟨hline.trans h1, hcfg ▸ h2, hfault.trans h3⟩, hport.trans h4, by rw [ht0, hcfg, h5],
    (timeLeft_congr hclock hstill).trans_le h6⟩

theorem Within.running (h : Within d τ s) (hp : s.ph.phase ≠ .idle) : s.running := ⟨h.inService, h.free, hp⟩

theorem Within.fault_eq (h : Within d τ s) : s.fault = none := by
  obtain ⟨-, -, hf⟩ := h.inService
  exact hf

/-- A transaction is preceded by one move of the environment. -/
theorem Within.moved (h : Within d τ s) (hv : t.loopView = (envStep s).loopView) : Within d τ t :=
  Within.congr (u := envStep s) ⟨h.inService, h.free, h.deadline_eq, timeLeft_envStep_le.trans h.left_le⟩ hv

/-- The deadline test found the deadline still ahead, so that its move has left less. -/
theorem Within.tested (h : Within d τ s) (hlt : clockVal s - s.wrk.t0 < s.cfg.timeoutMs)
    (hv : t.loopView = (envStep s).loopView) : ∃ τ' < τ, Within d τ' t := by
  have hopen : s.env.clock < d := by
    have hle : s.env.clock ≤ clockVal s := envStep_clock_le
    have hd := h.deadline_eq
    omega
  exact ⟨_, (timeLeft_envStep_lt hopen).trans_le h.left_le,
    Within.congr (u := envStep s) ⟨h.inService, h.free, h.deadline_eq, le_rfl⟩ hv⟩

end

/-! ## Every bounded wait ends (42 R171, 70 R329) -/

theorem elsewhere_enterStep5 : Elsewhere (enterStep5 s) s := by
  unfold enterStep5; split <;> exact elsewhere_gotoStep _ _

theorem elsewhere_enterStep4 : Elsewhere (enterStep4 s) s := by
  unfold enterStep4; split
  · exact elsewhere_gotoStep _ _
  · exact elsewhere_enterStep5

theorem onward_waitMet (w : WaitFor) : Onward (waitMet w s) s := by
  cases w with
  | ready =>
    simp only [waitMet]; split
    · exact (elsewhere_goto _).onward
    · exact (elsewhere_gotoStep _ _).onward
  | notBusy => exact (elsewhere_gotoStep _ _).onward
  | accepted => exact elsewhere_enterStep4.onward
  | done => exact elsewhere_enterStep5.onward
  | pulse | reset f => exact onward_finish _

theorem onward_waitPoll (w : WaitFor) :
    Onward (waitPoll w s) (noteSnap w.reg (readVal w.reg s) (readReg w.reg s)) := by
  unfold waitPoll; split
  · exact onward_waitMet w
  · exact (elsewhere_goto _).onward

theorem onward_waitCheck (w : WaitFor) : Onward (waitCheck w s) (readClock s) := by
  unfold waitCheck; split
  · rw [waitExpired_eq]; exact onward_finish _
  · exact (elsewhere_goto _).onward

/-- A wait leaves alone what surrounds the exchange, pulse or reset request it belongs to. -/
theorem waitStep_surroundings (w : WaitFor) (stage : WaitStage) :
    (waitStep w stage s).surroundings = s.surroundings := by
  cases stage with
  | start => rfl
  | poll => exact (onward_waitPoll w).surroundings_eq
  | check => exact (onward_waitCheck w).surroundings_eq

/-- A run leaves the wait for `w` and nothing around it has changed. -/
def WaitEnds (w : WaitFor) (s : State) : Prop :=
  ∃ t, Leads s t ∧ (∀ stage, t.ph.phase ≠ .wait w stage) ∧ t.surroundings = s.surroundings

section
variable {w : WaitFor}

theorem WaitEnds.of_left (h : ∀ stage, s.ph.phase ≠ .wait w stage) : WaitEnds w s := ⟨s, .refl s, h, rfl⟩

/-- One step of the wait, and a run from there. -/
theorem WaitEnds.head {stage : WaitStage} (hs : s.running) (hp : s.ph.phase = .wait w stage)
    (h : WaitEnds w (waitStep w stage s)) : WaitEnds w s := by
  obtain ⟨t, ht, hleft, hkept⟩ := h
  exact ⟨t, .head (step_waitStep hs hp) ht, hleft, hkept.trans (waitStep_surroundings w stage)⟩

theorem finish_left (r : OpResult) (stage : WaitStage) : (finish r s).ph.phase ≠ .wait w stage := fun h => by
  rcases finish_phase r s with hp | hp <;> cases hp.symm.trans h

variable {d : Nat} {τ : Nat ×ₗ WithTop Nat}

/-- From the deadline test the wait ends if it ends from every poll with less time left. -/
theorem waitEnds_check (hpoll : ∀ τ' < τ, ∀ u, Within d τ' u → u.ph.phase = .wait w .poll → WaitEnds w u)
    (h : Within d τ s) (hp : s.ph.phase = .wait w .check) : WaitEnds w s := by
  refine .head (h.running (by simp [hp])) hp ?_
  rcases Nat.lt_or_ge (clockVal s - s.wrk.t0) s.cfg.timeoutMs with hlt | hle
  · obtain ⟨τ', hless, hu⟩ := h.tested hlt (onward_waitCheck w).loopView_eq
    exact hpoll τ' hless _ hu ((waitCheck_phase_iff w).mp hlt)
  · rw [waitStep, waitCheck_expired hle]
    exact .of_left (finish_left _)

theorem waitEnds_poll (τ : Nat ×ₗ WithTop Nat) (s : State) (h : Within d τ s)
    (hp : s.ph.phase = .wait w .poll) : WaitEnds w s := by
  induction τ using WellFoundedLT.induction generalizing s with
  | ind τ ih =>
    refine .head (h.running (by simp [hp])) hp ?_
    rcases waitPoll_phase (s := s) w with hcheck | hleft
    · exact waitEnds_check ih (h.moved (onward_waitPoll w).loopView_eq) hcheck
    · exact .of_left hleft

theorem waitEnds {stage : WaitStage} (hs : s.running) (hp : s.ph.phase = .wait w stage) : WaitEnds w s := by
  cases stage with
  | start => exact .head hs hp (waitEnds_poll _ _ (within_of_running (running_of_eq hs)) rfl)
  | poll => exact waitEnds_poll _ s (within_of_running hs) hp
  | check => exact waitEnds_check (fun τ' _ => waitEnds_poll τ') (within_of_running hs) hp

end

/-! ## The loop of every pump ends (42 R177, R178, R275) -/

/-- The pump's loop is over: step 6 is next, its exchange has returned, or the read pump has overrun. -/
def PumpOver (t : State) : Prop :=
  (t.fault = none ∧ (t.ph.phase = .ackRead ∨ t.ph.phase = .idle ∨ t.ph.phase = .returned)) ∨
    t.fault = some (.bufferOverrun t.wrk.cursor)

/-- A run leads out of the pump's loop and leaves the session as it is. -/
def PumpEnds (s : State) : Prop := ∃ t, Leads s t ∧ t.ses = s.ses ∧ PumpOver t

theorem PumpEnds.of_over (h : PumpOver s) : PumpEnds s := ⟨s, .refl s, rfl, h⟩

/-- One step of the pump, and a run from there. -/
theorem PumpEnds.head (hstep : step s = .next u) (hv : u.loopView = s.loopView ∨ u.loopView = (envStep s).loopView)
    (h : PumpEnds u) : PumpEnds s := by
  have hses : u.ses = s.ses := by
    rcases hv with hv | hv
    all_goals
      obtain ⟨-, hses, -⟩ := loopView_eq_iff.mp hv
      exact hses
  obtain ⟨t, ht, hkept, hover⟩ := h
  exact ⟨t, .head hstep ht, hkept.trans hses, hover⟩

theorem pumpMore_phase (s : State) : (pumpMore s).ph.phase = .pumpCount ∨
    (pumpMore s).ph.phase = pumpExitPhase s.cfg.layout s.wrk.snap := by
  unfold pumpMore; split
  · exact .inr (pumpExit_phase s)
  · exact .inl rfl
  · split
    · exact .inl rfl
    · exact .inr (pumpExit_phase s)

/-- The STATUS read leads to the fault, to the exit test, or to the DATA access, for the read pump only with room left
in the buffer. -/
theorem pumpCounted_cases (count : Nat) :
    pumpCounted count s = raise (.bufferOverrun s.wrk.cursor) (spoilRead s) ∨ pumpCounted count s = pumpExit s ∨
    (pumpCounted count s = s.goto .pumpMove ∧ (s.wrk.td.isWrite = false → s.wrk.cursor < s.wrk.td.words)) := by
  cases htd : s.wrk.td with
  | none => right; left; simp only [pumpCounted, htd]
  | read dst n =>
    rcases Nat.lt_or_ge s.wrk.cursor n with hroom | hfull
    · rw [pumpCounted_read htd hroom]; split
      · exact .inr (.inr ⟨rfl, fun _ => hroom⟩)
      · exact .inr (.inl rfl)
    · rcases Nat.lt_or_ge count 2 with hlow | hcount
      · right; left; simp only [pumpCounted, htd]; exact if_neg (Nat.not_le.mpr hlow)
      · exact .inl (pumpCounted_overrun htd hfull hcount)
  | write src n =>
    rw [pumpCounted_write htd]; split
    · exact .inr (.inr ⟨rfl, nofun⟩)
    · exact .inr (.inl rfl)

/-- With at most `τ` left, the loop ends from the deadline test. -/
def EndsFromTime (d : Nat) (τ : Nat ×ₗ WithTop Nat) : Prop :=
  ∀ u, Within d τ u → u.ph.phase = .pumpTime → PumpEnds u

section
variable {d : Nat} {τ : Nat ×ₗ WithTop Nat} (htime : EndsFromTime d τ)
include htime

theorem pumpEnds_exit {l : Layout} {v : Word} (h : Within d τ s) (hp : s.ph.phase = pumpExitPhase l v) :
    PumpEnds s := by
  unfold pumpExitPhase at hp; split at hp
  · exact .of_over (.inl ⟨h.fault_eq, .inl hp⟩)
  · exact htime s h hp

/-- The DATA access leads to the next STATUS read with the cursor one further, for the write pump only while source
words remain, or out of the inner loop. -/
theorem pumpEnds_move (h : Within d τ s) (hp : s.ph.phase = .pumpMove)
    (hcount : ∀ u, Within d τ u → u.ph.phase = .pumpCount → u.wrk.td = s.wrk.td →
      u.wrk.cursor = s.wrk.cursor + 1 → (u.wrk.td.isWrite = true → u.wrk.cursor < u.wrk.td.words) → PumpEnds u) :
    PumpEnds s := by
  have hstep := step_pumpMove (h.running (by simp [hp])) hp
  cases htd : s.wrk.td with
  | none =>
    have hexit : pumpMove s = pumpExit s := by simp only [pumpMove, htd]
    have hview : (pumpMove s).loopView = s.loopView := by rw [hexit]; exact elsewhere_pumpExit.onward.loopView_eq
    exact .head hstep (.inl hview) (pumpEnds_exit htime (h.congr hview) (by rw [hexit]; exact pumpExit_phase s))
  | read dst n =>
    rw [pumpMove_read htd] at hstep
    exact .head hstep (.inr rfl) (hcount _ (h.moved rfl) rfl rfl rfl fun hw => by
      simp [htd, Descriptor.isWrite] at hw)
  | write src n =>
    rw [pumpMove_write htd] at hstep
    have hmore : Elsewhere (pumpMore (wordSent src s)) (wordSent src s) := elsewhere_pumpMore
    have hview : (pumpMore (wordSent src s)).loopView = (envStep s).loopView := hmore.onward.loopView_eq
    have hphase := pumpMore_write_phase (s := wordSent src s) htd
    refine .head hstep (.inr hview) ?_
    split at hphase
    · next hlt =>
      refine hcount _ (h.moved hview) hphase ((congrArg WorkRegs.td hmore.wrk_eq).trans rfl)
        ((congrArg WorkRegs.cursor hmore.wrk_eq).trans rfl) fun _ => ?_
      rw [hmore.wrk_eq, show (wordSent src s).wrk.td = .write src n from htd]
      exact hlt
    · exact pumpEnds_exit htime (h.moved hview) hphase

/-- The inner loop ends: every round of it moves a word, and there are finitely many to the end of the buffer. -/
theorem pumpEnds_count (h : Within d τ s) (hp : s.ph.phase = .pumpCount) : PumpEnds s := by
  induction hk : s.wrk.td.words - s.wrk.cursor using Nat.strong_induction_on generalizing s with
  | _ k ih =>
    have hstep : step s = .next (pumpCounted (statusCount s.cfg.layout (readVal .status s)) (readReg .status s)) :=
      step_pumpCount (h.running (by simp [hp])) hp
    have hmoved : Within d τ ((readReg .status s).goto .pumpMove) := h.moved rfl
    have hexited : (pumpExit (readReg .status s)).loopView = (envStep s).loopView :=
      elsewhere_pumpExit.onward.loopView_eq
    rcases pumpCounted_cases (s := readReg .status s) (statusCount s.cfg.layout (readVal .status s)) with
      hraise | hexit | ⟨hmove, hroom⟩
    · rw [hraise] at hstep
      exact ⟨_, .head hstep (.refl _), rfl, .inr rfl⟩
    · rw [hexit] at hstep
      exact .head hstep (.inr hexited) (pumpEnds_exit htime (h.moved hexited) (pumpExit_phase _))
    · rw [hmove] at hstep
      refine .head hstep (.inr rfl) (pumpEnds_move htime hmoved rfl fun u hu hpu (htd : u.wrk.td = s.wrk.td)
        (hcursor : u.wrk.cursor = s.wrk.cursor + 1) hwrite => ?_)
      have hlt : s.wrk.cursor < s.wrk.td.words := by
        rw [htd, hcursor] at hwrite
        cases hw : s.wrk.td.isWrite with
        | true => exact (Nat.lt_succ_self _).trans (hwrite hw)
        | false => exact hroom hw
      exact ih (u.wrk.td.words - u.wrk.cursor) (by rw [htd, hcursor, ← hk]; omega) hu hpu rfl

/-- The head of an iteration leads to the inner loop or out of it. -/
theorem pumpEnds_snap (h : Within d τ s) (hp : s.ph.phase = .pumpSnap) : PumpEnds s := by
  have hview : (pumpSnapshot s).loopView = (envStep s).loopView := elsewhere_pumpSnapshot.onward.loopView_eq
  have hphase := pumpSnapshot_phase s
  refine .head (step_pumpSnapshot (h.running (by simp [hp])) hp) (.inr hview) ?_
  split at hphase
  · rcases pumpMore_phase (snapped s) with hcount | hexit
    · exact pumpEnds_count htime (h.moved hview) (hphase.trans hcount)
    · exact pumpEnds_exit htime (h.moved hview) (hphase.trans hexit)
  · exact pumpEnds_exit htime (h.moved hview) hphase

end

theorem pumpOver_finish (r : OpResult) (hf : s.fault = none) : PumpOver (finish r s) :=
  .inl ⟨hf, .inr (finish_phase r s)⟩

/-- The deadline test ends the loop, or goes back to its head with less time left. -/
theorem endsFromTime (d : Nat) (τ : Nat ×ₗ WithTop Nat) : EndsFromTime d τ := by
  induction τ using WellFoundedLT.induction with
  | ind τ ih =>
    intro s h hp
    have hstep := step_pumpDeadline (h.running (by simp [hp])) hp
    rcases Nat.lt_or_ge (clockVal s - s.wrk.t0) s.cfg.timeoutMs with hlt | hle
    · rw [pumpDeadline_open hlt] at hstep
      obtain ⟨τ', hless, hu⟩ := h.tested hlt (t := (readClock s).goto .pumpSnap) rfl
      exact .head hstep (.inr rfl) (pumpEnds_snap (ih τ' hless) hu rfl)
    · rw [pumpDeadline_expired hle] at hstep
      exact .head hstep (.inr rfl) (.of_over (pumpOver_finish _ h.fault_eq))

theorem pumpEnds (hs : s.running) (hp : s.ph.phase = .pumpSnap ∨ s.ph.phase = .pumpCount ∨
    s.ph.phase = .pumpMove ∨ s.ph.phase = .pumpTime) : PumpEnds s := by
  have h := within_of_running hs
  have htime := endsFromTime (s.wrk.t0 + s.cfg.timeoutMs) (s.env.timeLeft (s.wrk.t0 + s.cfg.timeoutMs))
  rcases hp with hp | hp | hp | hp
  · exact pumpEnds_snap htime h hp
  · exact pumpEnds_count htime h hp
  · exact pumpEnds_move htime h hp fun _ hu hpu _ _ _ => pumpEnds_count htime hu hpu
  · exact htime s h hp

/-- Settles O34: the clock by the one transaction of a step, the deadline by what is left until it (`Env.timeLeft`), and
with that the waits and the pumps. -/
theorem clockNeverRunsBack : Obligations.ClockNeverRunsBack := by
  refine ⟨fun s t h => ⟨step_clock_le h, fun n => step_clock_read h⟩, exists_clock_passed,
    fun s w stage hs hp => ?wait, fun s hs hp => ?pump⟩
  case wait =>
    obtain ⟨t, ⟨k, hk⟩, hleft, hkept⟩ := waitEnds hs hp
    obtain ⟨hses, hmem, -, -, hfault, -⟩ := surroundings_eq_iff.mp hkept
    exact ⟨k, t, hk, hleft, hmem, hses, hfault.trans (running_fault hs)⟩
  case pump =>
    obtain ⟨t, ⟨k, hk⟩, hses, hover⟩ := pumpEnds hs hp
    exact ⟨k, t, hk, hses, hover⟩

/-! ## UnknownError (R291) -/

/-- What a step does to the completion: it stays, a new request withdraws it, or a result other than UnknownError is
delivered. -/
inductive CompletionEffect (s t : State) : Prop
  | kept (h : t.completion = s.completion)
  | withdrawn (h : t.completion = none)
  | delivered (c : Completion) (hc : c ≠ .err .unknownError) (h : t.completion = some c)

theorem completion_of_surroundings (h : t.surroundings = s.surroundings) : t.completion = s.completion := by
  obtain ⟨-, -, hc, -⟩ := surroundings_eq_iff.mp h
  exact hc

theorem pumpCounted_completion (count : Nat) : (pumpCounted count s).completion = s.completion := by
  rcases pumpCounted_cases (s := s) count with h | h | ⟨h, -⟩ <;> rw [h]
  · rfl
  · exact completion_of_surroundings elsewhere_pumpExit.surroundings_eq
  · rfl

theorem pumpBegin_completion (h : pumpBegin s = .next t) : t.completion = s.completion := by
  unfold pumpBegin at h
  split at h <;> cases h
  rfl

theorem pumpMove_completion : (pumpMove s).completion = s.completion := by
  unfold pumpMove; split
  · exact completion_of_surroundings elsewhere_pumpExit.surroundings_eq
  all_goals exact (completion_of_surroundings elsewhere_pumpMore.surroundings_eq).trans rfl

theorem pumpDeadline_completion : (pumpDeadline s).completion = s.completion := by
  unfold pumpDeadline; split <;> rfl

theorem startData_completion : (startData s).completion = s.completion := by
  unfold startData; split <;> rfl

theorem failInit_completion : CompletionEffect s (failInit u) := .delivered (.err .initError) nofun rfl

theorem becomeReady_completion : CompletionEffect s (becomeReady u) := .delivered .ok nofun rfl

theorem ocrRetry_completion : CompletionEffect s (ocrRetry s) := by
  unfold ocrRetry; split
  · exact failInit_completion
  · exact .kept rfl

/-- What is delivered when an exchange, pulse or reset request has returned: InitError or `Ok` of INIT, and the results
of the block operations (44 R234, R235, 45 R252, R253). -/
theorem resume_completion : CompletionEffect s (resume s) := by
  cases hc : s.ph.ctx with simp only [resume, hc]
  | bare | readRow | writeRow | scrRow | voltage => exact .kept rfl
  | scr => exact becomeReady_completion
  | pulseOff | pulseOn | fifoReset | dmaReset =>
    simp only [afterPulseOff, afterPulseOn, afterFifoReset, afterDmaReset]
    split
    · exact .kept rfl
    · exact failInit_completion
  | goIdle | identify | address | csd | select =>
    simp only [afterGoIdle, afterIdentify, afterAddress, afterCsd, afterSelect]
    split
    · exact .kept rfl
    all_goals exact failInit_completion
  | ocrApp =>
    unfold afterOcrApp; split
    · exact .kept rfl
    all_goals exact ocrRetry_completion
  | ocrCond =>
    unfold afterOcrCond; split
    · split
      · exact .kept rfl
      · exact ocrRetry_completion
    all_goals exact ocrRetry_completion
  | scrApp =>
    unfold afterScrApp; split
    · exact .kept rfl
    all_goals exact becomeReady_completion
  | readBlock =>
    unfold afterReadBlock; split
    · exact .delivered .ok nofun rfl
    · exact .delivered (.err .readError) nofun rfl
    · exact .delivered (.err .timeoutError) nofun rfl
  | writeBlock =>
    unfold afterWriteBlock; split
    · exact .delivered .ok nofun rfl
    · exact .delivered (.err .writeError) nofun rfl
    · exact .delivered (.err .timeoutError) nofun rfl

/-- One step of an operation in progress: only what follows a returned exchange, pulse or reset request delivers. -/
theorem advance_completion (ha : advance s = .next t) : CompletionEffect s t := by
  unfold advance at ha
  cases hp : s.ph.phase with rw [hp] at ha
  | returned => cases ha; exact resume_completion
  | pumpStart => exact .kept (pumpBegin_completion ha)
  | wait w stage => cases ha; exact .kept (completion_of_surroundings (waitStep_surroundings w stage))
  | pumpSnap => cases ha; exact .kept (completion_of_surroundings elsewhere_pumpSnapshot.surroundings_eq)
  | pumpCount => cases ha; exact .kept (pumpCounted_completion (s := readReg .status s) _)
  | pumpMove => cases ha; exact .kept pumpMove_completion
  | pumpTime => cases ha; exact .kept pumpDeadline_completion
  | byteCount => cases ha; exact .kept (startData_completion (s := writeReg _ _ _))
  | idle | writeArg | writeCmd | ackRead | ackWrite | readResp0 | readResp1 | readResp2 | readResp3 | classify
  | pulseWrite | resetRead f | resetWrite f | clockOff | clockDivide | clockOn | busWidth | sleep
  | blockSize => cases ha; exact .kept rfl

/-- The acceptance of an operation: a client request withdraws the last completion, and one stopped at the usable gate
gets InitError (45 R250, R255). -/
theorem exec_completion {i : Instr} (he : exec i (takeRequest s) = .next t) : CompletionEffect s t := by
  cases i with obtain ⟨-, rfl⟩ := accept_next he
  | goIdleState | allSendCid | sendRelativeAddr | selectCard | sendIfCond | sendCsd | sdSendOpCond | appCmd arg
  | commitClk | sendScr => exact .kept rfl
  | readSingleBlock index buf | writeSingleBlock index buf =>
    unfold beginBlockRow; split <;> exact .kept rfl
  | init => unfold beginInit; split <;> exact .withdrawn rfl
  | readBlock index buf | writeBlock index buf =>
    simp only [beginReadBlock, beginWriteBlock]; split
    · exact .withdrawn rfl
    · split
      · exact .delivered (.err .initError) nofun rfl
      · exact .withdrawn rfl

theorem step_completion (h : step s = .next t) : CompletionEffect s t := by
  obtain ⟨-, rfl⟩ | ⟨-, -, -, rfl⟩ | ⟨-, -, o, i, -, -, he⟩ | ⟨-, -, o, f, -, -, rfl⟩ | ⟨-, -, -, ha⟩ :=
    step_next_cases h
  · exact .withdrawn rfl
  · exact .kept rfl
  · exact exec_completion he
  · exact .kept rfl
  · exact advance_completion ha

/-- Settles O54: a completion that was not there before the step is another one. -/
theorem unknownErrorNeverProduced : Obligations.UnknownErrorNeverProduced := by
  intro s t h ht
  cases step_completion h with
  | kept hc => exact hc.symm.trans ht
  | withdrawn hc => cases hc.symm.trans ht
  | delivered c hne hc => exact absurd (Option.some.inj (hc.symm.trans ht)) hne

end Sys2Proof.Machine
end

section
/-! SUPPORT. Proofs of the statements of 70_reset_and_hazards.md: a command is submitted only after `start`, and
`data_busy`, were read as 0 (R320), and the word that one location per access leaves in the FIFO (R324). -/

namespace Sys2Proof.Machine

variable {s t : State}

/-! ## The places R320 guards -/

/-- The wait for `data_busy`, and the two writes of step 2. -/
def Phase.guarded : Phase → Bool
  | .wait .notBusy _ | .writeArg | .writeCmd => true
  | _ => false

/-- What R320 asks of a step from `s` to `t` that leads to the place `p`. -/
def EntryGuard (s t : State) : Phase → Prop
  | .wait .notBusy .start => s.ph.phase = .wait .ready .poll ∧ t.wrk = s.wrk ∧ ∃ v,
      t.trace = rdTxn s.cfg .cmd v :: s.trace ∧ cmdStart s.cfg.layout v = false ∧
      cmdDataExpected s.cfg.layout s.wrk.cmdval = true
  | .wait .notBusy .poll => s.ph.phase = .wait .notBusy .start ∨ s.ph.phase = .wait .notBusy .check
  | .wait .notBusy .check => s.ph.phase = .wait .notBusy .poll
  | .writeArg => ∃ v,
      (s.ph.phase = .wait .ready .poll ∧ t.trace = rdTxn s.cfg .cmd v :: s.trace ∧
        cmdStart s.cfg.layout v = false ∧ cmdDataExpected s.cfg.layout s.wrk.cmdval = false) ∨
      (s.ph.phase = .wait .notBusy .poll ∧ t.trace = rdTxn s.cfg .status v :: s.trace ∧
        statusBusy s.cfg.layout v = false)
  | .writeCmd => s.ph.phase = .writeArg ∧ t.wrk = s.wrk ∧ t.trace = wrTxn s.cfg .cmdarg s.wrk.arg :: s.trace
  | _ => True

/-- R320 asks nothing of any other place. -/
theorem entryGuard_of_unguarded {p : Phase} (h : p.guarded = false) : EntryGuard s t p := by
  unfold EntryGuard; split
  case h_6 => trivial
  all_goals cases h

/-! ## What leads to none of them -/

theorem unguarded_finish (r : OpResult) : (finish r s).ph.phase.guarded = false := by
  rcases finish_phase r s with h | h <;> rw [h] <;> rfl

theorem unguarded_enterStep5 : (enterStep5 s).ph.phase.guarded = false := by
  rw [enterStep5_phase]; split <;> rfl

theorem unguarded_enterStep4 : (enterStep4 s).ph.phase.guarded = false := by
  unfold enterStep4; split
  · rfl
  · exact unguarded_enterStep5

theorem unguarded_pumpExit : (pumpExit s).ph.phase.guarded = false := by
  unfold pumpExit; split <;> rfl

theorem unguarded_pumpMore : (pumpMore s).ph.phase.guarded = false := by
  unfold pumpMore; split
  · exact unguarded_pumpExit
  · rfl
  · split
    · rfl
    · exact unguarded_pumpExit

theorem unguarded_pumpBegin (h : pumpBegin s = .next t) : t.ph.phase.guarded = false := by
  unfold pumpBegin at h
  split at h <;> cases h
  rfl

theorem unguarded_pumpSnapshot : (pumpSnapshot s).ph.phase.guarded = false := by
  unfold pumpSnapshot; split
  · exact unguarded_pumpMore
  · exact unguarded_pumpExit

theorem unguarded_pumpCounted (hp : s.ph.phase = .pumpCount) (count : Nat) :
    (pumpCounted count s).ph.phase.guarded = false := by
  rcases pumpCounted_cases (s := s) count with h | h | ⟨h, -⟩ <;> rw [h]
  · exact congrArg Phase.guarded hp
  · exact unguarded_pumpExit
  · rfl

theorem unguarded_pumpMove : (pumpMove s).ph.phase.guarded = false := by
  unfold pumpMove; split
  · exact unguarded_pumpExit
  all_goals exact unguarded_pumpMore

theorem unguarded_pumpDeadline : (pumpDeadline s).ph.phase.guarded = false := by
  unfold pumpDeadline; split
  · exact unguarded_finish _
  · rfl

/-- An exchange begins with the wait for `start`. -/
theorem unguarded_startData : (startData s).ph.phase.guarded = false := by
  unfold startData; split <;> rfl

theorem unguarded_ocrRetry : (ocrRetry s).ph.phase.guarded = false := by
  unfold ocrRetry; split <;> rfl

/-- What follows a returned exchange, pulse or reset request begins something anew, or completes. -/
theorem unguarded_resume : (resume s).ph.phase.guarded = false := by
  cases hc : s.ph.ctx with simp only [resume, hc]
  | bare | readRow | writeRow | scrRow | voltage | scr => rfl
  | pulseOff | pulseOn | fifoReset | dmaReset =>
    simp only [afterPulseOff, afterPulseOn, afterFifoReset, afterDmaReset]
    split <;> rfl
  | goIdle | identify | address | csd | select | scrApp | readBlock | writeBlock =>
    simp only [afterGoIdle, afterIdentify, afterAddress, afterCsd, afterSelect, afterScrApp, afterReadBlock,
      afterWriteBlock]
    split <;> rfl
  | ocrApp =>
    unfold afterOcrApp; split
    · rfl
    all_goals exact unguarded_ocrRetry
  | ocrCond =>
    unfold afterOcrCond; split
    · split
      · rfl
      · exact unguarded_ocrRetry
    all_goals exact unguarded_ocrRetry

theorem unguarded_of_isIdle (h : s.isIdle = true) : s.ph.phase.guarded = false := by
  obtain ⟨hp, -⟩ := isIdle_iff.mp h
  rw [hp]; rfl

/-- The acceptance of an operation begins it, completes it, or leaves the block at its idle place. -/
theorem unguarded_exec {i : Instr} (he : exec i s = .next t) : t.ph.phase.guarded = false := by
  have hidle : s.ph.phase.guarded = false := by rw [exec_idle he]; rfl
  cases i with obtain ⟨-, rfl⟩ := accept_next he
  | goIdleState | allSendCid | sendRelativeAddr | selectCard | sendIfCond | sendCsd | sdSendOpCond | appCmd arg
  | commitClk | sendScr => rfl
  | readSingleBlock index buf | writeSingleBlock index buf =>
    unfold beginBlockRow; split
    · exact hidle
    · rfl
  | init =>
    unfold beginInit; split
    · rfl
    · exact hidle
  | readBlock index buf | writeBlock index buf =>
    simp only [beginReadBlock, beginWriteBlock]; split
    · exact hidle
    · split <;> rfl

/-! ## What leads to them -/

theorem waitMet_ready_plain (h : cmdDataExpected s.cfg.layout s.wrk.cmdval = false) :
    waitMet .ready s = enterStep2 s := if_neg (by simp [h])

theorem waitMet_ready_data (h : cmdDataExpected s.cfg.layout s.wrk.cmdval = true) :
    waitMet .ready s = s.await .notBusy := if_pos h

/-- The poll of CMD that read `start` as 0 leads to step 2 or, with a data phase, to the wait for `data_busy`. -/
theorem entryGuard_readyPoll (hp : s.ph.phase = .wait .ready .poll)
    (hmet : WaitFor.ready.holds s.cfg.layout (readVal .cmd s) = true) :
    EntryGuard s (waitPoll .ready s) (waitPoll .ready s).ph.phase := by
  have hstart : cmdStart s.cfg.layout (readVal .cmd s) = false := by simpa [WaitFor.holds] using hmet
  cases hdata : cmdDataExpected s.cfg.layout s.wrk.cmdval with
  | false =>
    have hnext := (waitPoll_met hmet).trans (waitMet_ready_plain hdata)
    rw [hnext]
    exact ⟨_, .inl ⟨hp, rfl, hstart, hdata⟩⟩
  | true =>
    have hnext := (waitPoll_met hmet).trans (waitMet_ready_data hdata)
    rw [hnext]
    exact ⟨hp, rfl, _, rfl, hstart, hdata⟩

/-- The poll of STATUS that read `data_busy` as 0 leads to step 2. -/
theorem entryGuard_notBusyPoll (hp : s.ph.phase = .wait .notBusy .poll)
    (hmet : WaitFor.notBusy.holds s.cfg.layout (readVal .status s) = true) :
    EntryGuard s (waitPoll .notBusy s) (waitPoll .notBusy s).ph.phase := by
  have hbusy : statusBusy s.cfg.layout (readVal .status s) = false := by simpa [WaitFor.holds] using hmet
  rw [waitPoll_met hmet]
  exact ⟨_, .inr ⟨hp, rfl, hbusy⟩⟩

/-- The next poll of a wait follows its beginning or a deadline that had not passed. -/
theorem entryGuard_poll {w : WaitFor} (hp : s.ph.phase = .wait w .start ∨ s.ph.phase = .wait w .check) :
    EntryGuard s t (.wait w .poll) := by
  cases w with
  | notBusy => exact hp
  | ready | accepted | done | pulse | reset f => trivial

/-- The deadline of a wait is tested after a poll of it. -/
theorem entryGuard_check {w : WaitFor} (hp : s.ph.phase = .wait w .poll) : EntryGuard s t (.wait w .check) := by
  cases w with
  | notBusy => exact hp
  | ready | accepted | done | pulse | reset f => trivial

theorem entryGuard_waitPoll {w : WaitFor} (hp : s.ph.phase = .wait w .poll) :
    EntryGuard s (waitPoll w s) (waitPoll w s).ph.phase := by
  cases hmet : w.holds s.cfg.layout (readVal w.reg s) with
  | false => rw [waitPoll_unmet hmet]; exact entryGuard_check hp
  | true =>
    cases w with
    | ready => exact entryGuard_readyPoll hp hmet
    | notBusy => exact entryGuard_notBusyPoll hp hmet
    | accepted => rw [waitPoll_met hmet]; exact entryGuard_of_unguarded unguarded_enterStep4
    | done => rw [waitPoll_met hmet]; exact entryGuard_of_unguarded unguarded_enterStep5
    | pulse | reset f => rw [waitPoll_met hmet]; exact entryGuard_of_unguarded (unguarded_finish _)

/-- One transaction of a bounded wait. -/
theorem entryGuard_waitStep {w : WaitFor} {stage : WaitStage} (hp : s.ph.phase = .wait w stage) :
    EntryGuard s (waitStep w stage s) (waitStep w stage s).ph.phase := by
  cases stage with
  | start => exact entryGuard_poll (.inl hp)
  | poll => exact entryGuard_waitPoll hp
  | check =>
    simp only [waitStep, waitCheck]; split
    · rw [waitExpired_eq]; exact entryGuard_of_unguarded (unguarded_finish _)
    · exact entryGuard_poll (.inr hp)

/-- One step of an operation in progress: only a bounded wait and the write of CMDARG lead to a guarded place. -/
theorem entryGuard_advance (ha : advance s = .next t) : EntryGuard s t t.ph.phase := by
  unfold advance at ha
  cases hp : s.ph.phase with rw [hp] at ha
  | wait w stage => cases ha; exact entryGuard_waitStep hp
  | writeArg => cases ha; exact ⟨hp, rfl, rfl⟩
  | idle => cases ha; exact entryGuard_of_unguarded (congrArg Phase.guarded hp)
  | pumpStart => exact entryGuard_of_unguarded (unguarded_pumpBegin ha)
  | pumpSnap => cases ha; exact entryGuard_of_unguarded unguarded_pumpSnapshot
  | pumpCount => cases ha; exact entryGuard_of_unguarded (unguarded_pumpCounted (s := readReg .status s) hp _)
  | pumpMove => cases ha; exact entryGuard_of_unguarded unguarded_pumpMove
  | pumpTime => cases ha; exact entryGuard_of_unguarded unguarded_pumpDeadline
  | classify => cases ha; exact entryGuard_of_unguarded (unguarded_finish _)
  | byteCount => cases ha; exact entryGuard_of_unguarded unguarded_startData
  | returned => cases ha; exact entryGuard_of_unguarded unguarded_resume
  | writeCmd | ackRead | ackWrite | readResp0 | readResp1 | readResp2 | readResp3 | pulseWrite | resetRead f
  | resetWrite f | clockOff | clockDivide | clockOn | busWidth | sleep | blockSize => cases ha; trivial

/-- Every step meets what R320 asks of the place it leads to. -/
theorem step_entryGuard {p : Phase} (h : step s = .next t) (hp : t.ph.phase = p) : EntryGuard s t p := by
  subst hp
  obtain ⟨-, rfl⟩ | ⟨-, hi, -, rfl⟩ | ⟨-, -, o, i, -, -, he⟩ | ⟨-, hi, o, f, -, -, rfl⟩ | ⟨-, -, -, ha⟩ :=
    step_next_cases h
  · trivial
  · exact entryGuard_of_unguarded (unguarded_of_isIdle hi)
  · exact entryGuard_of_unguarded (unguarded_exec he)
  · exact entryGuard_of_unguarded (unguarded_of_isIdle (s := s) hi)
  · exact entryGuard_advance ha

/-- Settles O24: each clause is what `EntryGuard` asks of one place. -/
theorem submitOnlyAfterStartClear : Obligations.SubmitOnlyAfterStartClear :=
  ⟨fun _ _ h hp _ => step_entryGuard h hp, fun _ _ h hp => step_entryGuard h hp,
    fun _ _ h hp => step_entryGuard h hp, fun _ _ h hp => step_entryGuard h hp,
    fun _ _ h hp => step_entryGuard h hp⟩

/-! ## The word that stays in the FIFO (R324) -/

/-- Settles O26: the run of the drain (`Draining.run`), whose count test fails at one word of one location. -/
theorem residualWordStays : Obligations.ResidualWordStays := by
  intro s dst n vs last ms rest hs hp htd hunits hfifo hscript hlen hquiet hreset hroom hshown
  have hdrain : Draining .pumpCount (2 * vs.length + 1) dst n vs [last] s :=
    ⟨hs, hp, htd, hfifo, ⟨ms, rest, hscript, hlen, hquiet⟩, hreset, hroom, by simp [hunits, FifoUnits.count],
      by simp [hunits, FifoUnits.count], by simpa [hunits, FifoUnits.count] using hshown⟩
  obtain ⟨t, hrun, ht, hleft, hphase⟩ := hdrain.run
  exact ⟨t, hrun, ht.cursor_eq, hleft, ht.mem_eq, hphase, ht.fault_eq.trans (running_fault hs)⟩

end Sys2Proof.Machine
end
